-- ==== Sys2Proof/Word.lean ====
section
/-! DEFINITION. Word.lean: the widths of the block's data (10_state R20 to R28, 43_utf8 R111, 30_encoding R60). -/

namespace Sys2Proof

/-- One cell of BUF, BIN or BOUT: an integer in [0, 255] (10_state R20, R26, R29). -/
abbrev Byte := BitVec 8

/-- One element of TIN or TOUT: a code point below `2^31` (10_state R25, R29; 00_scope R8). -/
abbrev CodePoint := BitVec 31

/-- A command word, 32 bits, bit 0 the least significant (10_state R22, 30_encoding R60). -/
abbrev CommandWord := BitVec 32

/-- A 64-bit pattern, as VAL and RESULT hold it (10_state R24, R27). -/
abbrev Bits64 := BitVec 64

/-- A 32-bit pattern, as four bytes of BUF hold a binary32 number (45_float R170). -/
abbrev Bits32 := BitVec 32

end Sys2Proof
end

