-- ==== Sys2Proof/Syntax.lean ====
section
/-! DEFINITION. Syntax.lean: the 36 commands, one constructor per row of spec/opcode_table.json (30_encoding R63, R64). -/

namespace Sys2Proof

/-- The fields of a command word beside OPC and the reserved bits (30_encoding R60). Every command word carries all four;
which of them a command reads is R61's table, and is said by the command's meaning. -/
structure Ctl where
  /-- `A`, bit 8: assertion mode, 1 = checks on. -/
  a : Bool
  /-- `OV`, bit 9: OFF holds the offset. -/
  ov : Bool
  /-- `VV`, bit 10: VAL holds the value. -/
  vv : Bool
  /-- `TV`, bit 11: TIN holds the selector name (ENCSEL only). -/
  tv : Bool
deriving DecidableEq, Repr

/-- A command of the block, named as the table names it, with the flag bits of its word. -/
inductive Instr where
  /-- `LENGTH`, OPC 0x01 (R80). -/
  | length (c : Ctl)
  /-- `ENCSEL`, OPC 0x02 (R81). -/
  | encsel (c : Ctl)
  /-- `B64DEC`, OPC 0x10 (R91). -/
  | b64dec (c : Ctl)
  /-- `B64ENC`, OPC 0x11 (R92). -/
  | b64enc (c : Ctl)
  /-- `HEXDEC`, OPC 0x12 (R101). -/
  | hexdec (c : Ctl)
  /-- `HEXENC`, OPC 0x13 (R102). -/
  | hexenc (c : Ctl)
  /-- `U8ENC`, OPC 0x14 (R111). -/
  | u8enc (c : Ctl)
  /-- `U8DEC`, OPC 0x15 (R113). -/
  | u8dec (c : Ctl)
  /-- `READ.U8`, OPC 0x80 (R140). -/
  | readU8 (c : Ctl)
  /-- `READ.I8`, OPC 0x88 (R141). -/
  | readI8 (c : Ctl)
  /-- `READ.U16LE`, OPC 0x90 (R142). -/
  | readU16LE (c : Ctl)
  /-- `READ.U16BE`, OPC 0x94 (R143). -/
  | readU16BE (c : Ctl)
  /-- `READ.I16LE`, OPC 0x98 (R144). -/
  | readI16LE (c : Ctl)
  /-- `READ.I16BE`, OPC 0x9c (R145). -/
  | readI16BE (c : Ctl)
  /-- `READ.U32LE`, OPC 0xa0 (R146). -/
  | readU32LE (c : Ctl)
  /-- `READ.U32BE`, OPC 0xa4 (R147). -/
  | readU32BE (c : Ctl)
  /-- `READ.I32LE`, OPC 0xa8 (R148). -/
  | readI32LE (c : Ctl)
  /-- `READ.I32BE`, OPC 0xac (R149). -/
  | readI32BE (c : Ctl)
  /-- `READ.F32LE`, OPC 0xb0 (R180). -/
  | readF32LE (c : Ctl)
  /-- `READ.F32BE`, OPC 0xb4 (R181). -/
  | readF32BE (c : Ctl)
  /-- `READ.F64LE`, OPC 0xb8 (R182). -/
  | readF64LE (c : Ctl)
  /-- `READ.F64BE`, OPC 0xbc (R183). -/
  | readF64BE (c : Ctl)
  /-- `WRITE.U8`, OPC 0xc0 (R150). -/
  | writeU8 (c : Ctl)
  /-- `WRITE.I8`, OPC 0xc8 (R151). -/
  | writeI8 (c : Ctl)
  /-- `WRITE.U16LE`, OPC 0xd0 (R152). -/
  | writeU16LE (c : Ctl)
  /-- `WRITE.U16BE`, OPC 0xd4 (R153). -/
  | writeU16BE (c : Ctl)
  /-- `WRITE.I16LE`, OPC 0xd8 (R154). -/
  | writeI16LE (c : Ctl)
  /-- `WRITE.I16BE`, OPC 0xdc (R155). -/
  | writeI16BE (c : Ctl)
  /-- `WRITE.U32LE`, OPC 0xe0 (R156). -/
  | writeU32LE (c : Ctl)
  /-- `WRITE.U32BE`, OPC 0xe4 (R157). -/
  | writeU32BE (c : Ctl)
  /-- `WRITE.I32LE`, OPC 0xe8 (R158). -/
  | writeI32LE (c : Ctl)
  /-- `WRITE.I32BE`, OPC 0xec (R159). -/
  | writeI32BE (c : Ctl)
  /-- `WRITE.F32LE`, OPC 0xf0 (R184). -/
  | writeF32LE (c : Ctl)
  /-- `WRITE.F32BE`, OPC 0xf4 (R185). -/
  | writeF32BE (c : Ctl)
  /-- `WRITE.F64LE`, OPC 0xf8 (R186). -/
  | writeF64LE (c : Ctl)
  /-- `WRITE.F64BE`, OPC 0xfc (R187). -/
  | writeF64BE (c : Ctl)
deriving DecidableEq, Repr

/-- The four flag bits of a command. -/
def Instr.ctl : Instr → Ctl
  | .length c => c
  | .encsel c => c
  | .b64dec c => c
  | .b64enc c => c
  | .hexdec c => c
  | .hexenc c => c
  | .u8enc c => c
  | .u8dec c => c
  | .readU8 c => c
  | .readI8 c => c
  | .readU16LE c => c
  | .readU16BE c => c
  | .readI16LE c => c
  | .readI16BE c => c
  | .readU32LE c => c
  | .readU32BE c => c
  | .readI32LE c => c
  | .readI32BE c => c
  | .readF32LE c => c
  | .readF32BE c => c
  | .readF64LE c => c
  | .readF64BE c => c
  | .writeU8 c => c
  | .writeI8 c => c
  | .writeU16LE c => c
  | .writeU16BE c => c
  | .writeI16LE c => c
  | .writeI16BE c => c
  | .writeU32LE c => c
  | .writeU32BE c => c
  | .writeI32LE c => c
  | .writeI32BE c => c
  | .writeF32LE c => c
  | .writeF32BE c => c
  | .writeF64LE c => c
  | .writeF64BE c => c

end Sys2Proof
end

