-- ==== Sys2Proof/Config.lean ====
section
/-! DEFINITION. Config.lean: the instance's parameters (00_scope R5) and the free values that stand for `draw` (00_scope R9).
Every constant here that the spec leaves open is opaque: it has no body, so nothing can be proved of its value. -/

namespace Sys2Proof

/-- `F32_TIES`: how a tie of round-to-nearest goes in the single-precision packer (00_scope R5, 45_float R174). -/
inductive Ties where
  | away
  | even
deriving DecidableEq, Repr, Inhabited

/-- `NEG_ZERO_WRITE`: what a float write stores for -0.0 (00_scope R5, 45_float R173, R175). -/
inductive NegZeroWrite where
  | keepSign
  | clearSign
deriving DecidableEq, Repr, Inhabited

/-- The parameters of one instance that are not LEN or INIT_IMAGE (00_scope R5). No command changes them. -/
structure Params where
  /-- `ADDR_W`, the width in bits of OFF. -/
  addrW : Nat
  f32Ties : Ties
  negZeroWrite : NegZeroWrite
deriving DecidableEq, Repr

namespace Config

/-- The largest LEN an instance with offsets of `addrW` bits may have: `LEN <= 2^53 - 1` and `LEN <= 2^ADDR_W - 1` (00_scope R5). -/
def maxLen (addrW : Nat) : Nat := min (2 ^ 53 - 1) (2 ^ addrW - 1)

/-! The open parameters of the instance that State.reset describes (log 7). -/

opaque addrWMinusOne : Nat

/-- `ADDR_W >= 1` (00_scope R5). -/
def addrW : Nat := addrWMinusOne + 1

opaque f32Ties : Ties
opaque negZeroWrite : NegZeroWrite
opaque imageSource : List Byte

/-- `INIT_IMAGE`: any list of bytes that R5 allows as BUF's first contents (all zeros when the instance is built from a count). -/
def initImage : List Byte := imageSource.take (maxLen addrW)

def params : Params := ⟨addrW, f32Ties, negZeroWrite⟩

/-! The free values (log 6). The first argument is the number of draws made so far, State.draws. -/

/-- U1: RESULT of a read with A = 0 whose offset is absent or out of bounds (44_integer R133). -/
opaque drawResult : Nat → Bits64

/-- U3, U4: byte `i` of the bytes a write with A = 0, a good offset and a bad value stores (44_integer R134, 45_float R176). -/
opaque drawByte : (draw i : Nat) → Byte

/-- U5, U6: any 64-bit pattern, from which the drawn binary64 NaN is made (45_float R172, R175). -/
opaque drawNaN64 : Nat → Bits64

/-- U6: any 32-bit pattern, from which the drawn binary32 NaN is made (45_float R173). -/
opaque drawNaN32 : Nat → Bits32

/-- U9: the unspecified tail of U8DEC's output (43_utf8 R114). -/
opaque drawTail : Nat → List CodePoint

/-! What `undefined` leaves in the components R214 calls unconstrained (60_exceptions R214; log 5). -/

opaque undefinedBuf : Nat → List Byte
opaque undefinedResult : Nat → Bits64
opaque undefinedStatus : Nat → BitVec 4
opaque undefinedTout : Nat → List CodePoint
opaque undefinedBout : Nat → List Byte

end Config

end Sys2Proof
end

