-- ==== Sys2Proof/WellFormed.lean ====
section
/-! DEFINITION. WellFormed.lean: what the spec allows of a command word (30_encoding R66), of an instance's parameters
(00_scope R5) and of an offset the host presents (10_state R23). A command of Syntax.lean has no ill-formed value: its only
operands in the word are the four flag bits, and no value of them makes a command illegal (30_encoding R61). -/

namespace Sys2Proof

/-- The opcodes of R63. -/
def lowOpcodes : List Nat := [0x01, 0x02, 0x10, 0x11, 0x12, 0x13, 0x14, 0x15]

/-- The four 1-byte big-endian opcodes, which R66 names as illegal. -/
def oneByteBigEndianOpcodes : List Nat := [0x84, 0x8C, 0xC4, 0xCC]

/-- R66's list read as a test on the opcode number: below 0x80 it is one of R63's; from 0x80 on its two low bits are 0 and it is
not one of the four 1-byte big-endian opcodes. -/
def legalOpcode (opc : Nat) : Bool :=
  if opc < 0x80 then lowOpcodes.contains opc
  else opc % 4 == 0 && !oneByteBigEndianOpcodes.contains opc

/-- A legal command word: reserved bits 31 .. 12 are 0 and the opcode is legal (R66). -/
def legalWord (w : CommandWord) : Bool := w.toNat < 2 ^ 12 && legalOpcode (w.toNat % 2 ^ 8)

/-- What R5 asks of ADDR_W and LEN. -/
def paramsWf (p : Params) (len : Nat) : Bool :=
  1 ≤ p.addrW && len ≤ 2 ^ 53 - 1 && len ≤ 2 ^ p.addrW - 1

/-- An offset that OFF can hold: an unsigned number of ADDR_W bits (R23). -/
def offsetFits (p : Params) (off : Nat) : Bool := off < 2 ^ p.addrW

end Sys2Proof
end

