-- ==== Sys2Proof/Decode.lean ====
section
/-! DEFINITION. Decode.lean: the decoder, total on every 32-bit word (30_encoding R65), and the encoder, written from the
opcode tables of R63 and R64 and the word format of R60. -/

namespace Sys2Proof

/-- Why a word is ILLEGAL, in the order R65 finds it (30_encoding R65, R66). -/
inductive Illegal where
  /-- `RSV != 0`. -/
  | reservedBits
  /-- An opcode in 0x00 .. 0x7F that R63 does not list. -/
  | unlistedOpcode
  /-- An opcode in 0x80 .. 0xFF with `OPC[1:0] != 0`. -/
  | numericLowBits
  /-- A 1-byte type with `E = 1`. -/
  | oneByteBigEndian
deriving DecidableEq, Repr

/-- Bits 11 .. 8 of a word (R60). -/
def ctlOf (w : CommandWord) : Ctl :=
  ⟨w.getLsbD 8, w.getLsbD 9, w.getLsbD 10, w.getLsbD 11⟩

/-- The numeric read command of type `t` and byte order `e` (R64, W = 0). A 1-byte type has no byte order. -/
def numericRead (t : Nat) (e : Bool) (c : Ctl) : Instr :=
  match t, e with
  | 0, _ => .readU8 c
  | 1, _ => .readI8 c
  | 2, false => .readU16LE c
  | 2, true => .readU16BE c
  | 3, false => .readI16LE c
  | 3, true => .readI16BE c
  | 4, false => .readU32LE c
  | 4, true => .readU32BE c
  | 5, false => .readI32LE c
  | 5, true => .readI32BE c
  | 6, false => .readF32LE c
  | 6, true => .readF32BE c
  | _, false => .readF64LE c
  | _, true => .readF64BE c

/-- The numeric write command of type `t` and byte order `e` (R64, W = 1). -/
def numericWrite (t : Nat) (e : Bool) (c : Ctl) : Instr :=
  match t, e with
  | 0, _ => .writeU8 c
  | 1, _ => .writeI8 c
  | 2, false => .writeU16LE c
  | 2, true => .writeU16BE c
  | 3, false => .writeI16LE c
  | 3, true => .writeI16BE c
  | 4, false => .writeU32LE c
  | 4, true => .writeU32BE c
  | 5, false => .writeI32LE c
  | 5, true => .writeI32BE c
  | 6, false => .writeF32LE c
  | 6, true => .writeF32BE c
  | _, false => .writeF64LE c
  | _, true => .writeF64BE c

/-- The block-control and text commands (R63), by opcode. -/
def lowCommand (opc : Nat) (c : Ctl) : Option Instr :=
  match opc with
  | 0x01 => some (.length c)
  | 0x02 => some (.encsel c)
  | 0x10 => some (.b64dec c)
  | 0x11 => some (.b64enc c)
  | 0x12 => some (.hexdec c)
  | 0x13 => some (.hexenc c)
  | 0x14 => some (.u8enc c)
  | 0x15 => some (.u8dec c)
  | _ => none

/-- The decoding procedure of R65, step by step; what R65 calls ILLEGAL is rejected by name. -/
def decode (w : CommandWord) : Except Illegal Instr :=
  if w.extractLsb' 12 20 ≠ 0 then .error .reservedBits
  else
    let opc := w.extractLsb' 0 8
    match lowCommand opc.toNat (ctlOf w) with
    | some i => .ok i
    | none =>
      if opc.getLsbD 7 = false then .error .unlistedOpcode
      else if opc.extractLsb' 0 2 ≠ 0 then .error .numericLowBits
      else
        let t := (opc.extractLsb' 3 3).toNat
        let e := opc.getLsbD 2
        if (t = 0 ∨ t = 1) ∧ e = true then .error .oneByteBigEndian
        else if opc.getLsbD 6 then .ok (numericWrite t e (ctlOf w))
        else .ok (numericRead t e (ctlOf w))

/-- A decoded command, or nothing for an ILLEGAL word. -/
def decode? (w : CommandWord) : Option Instr :=
  match decode w with
  | .ok i => some i
  | .error _ => none

/-- The opcode of each command, from the tables of R63 and R64. -/
def Instr.opcode : Instr → BitVec 8
  | .length _ => 0x01
  | .encsel _ => 0x02
  | .b64dec _ => 0x10
  | .b64enc _ => 0x11
  | .hexdec _ => 0x12
  | .hexenc _ => 0x13
  | .u8enc _ => 0x14
  | .u8dec _ => 0x15
  | .readU8 _ => 0x80
  | .readI8 _ => 0x88
  | .readU16LE _ => 0x90
  | .readU16BE _ => 0x94
  | .readI16LE _ => 0x98
  | .readI16BE _ => 0x9C
  | .readU32LE _ => 0xA0
  | .readU32BE _ => 0xA4
  | .readI32LE _ => 0xA8
  | .readI32BE _ => 0xAC
  | .readF32LE _ => 0xB0
  | .readF32BE _ => 0xB4
  | .readF64LE _ => 0xB8
  | .readF64BE _ => 0xBC
  | .writeU8 _ => 0xC0
  | .writeI8 _ => 0xC8
  | .writeU16LE _ => 0xD0
  | .writeU16BE _ => 0xD4
  | .writeI16LE _ => 0xD8
  | .writeI16BE _ => 0xDC
  | .writeU32LE _ => 0xE0
  | .writeU32BE _ => 0xE4
  | .writeI32LE _ => 0xE8
  | .writeI32BE _ => 0xEC
  | .writeF32LE _ => 0xF0
  | .writeF32BE _ => 0xF4
  | .writeF64LE _ => 0xF8
  | .writeF64BE _ => 0xFC

/-- The command word of a command: RSV = 0, then TV, VV, OV, A and OPC (R60). -/
def encode (i : Instr) : CommandWord :=
  0#20 ++ (BitVec.ofBool i.ctl.tv ++ (BitVec.ofBool i.ctl.vv ++ (BitVec.ofBool i.ctl.ov ++
    (BitVec.ofBool i.ctl.a ++ i.opcode))))

/-- The word whose bits are the low `nbits` bits of `w`, every higher bit 0. -/
def tableWord (nbits w : Nat) : CommandWord := BitVec.ofNat 32 (w % 2 ^ nbits)

/-- The host's question: the command the decoder reads from the word `w` of `nbits` bits. A command is one 32-bit word in CMD
(R60, R67), so there is no byte order to lay out. -/
def decodeTableWord (nbits w : Nat) : Option Instr := decode? (tableWord nbits w)

end Sys2Proof
end

