-- ==== Sys2Proof/Machine/Memory.lean ====
section
/-! DEFINITION. Machine/Memory.lean: BUF as a list of (address, byte) pairs (20_memory R40, R42). An address that is not listed
reads as 0, the content of a zero-filled instance (10_state R36; log 8). -/

namespace Sys2Proof.Machine

/-- BUF's contents: addresses strictly rising, and no listed byte is 0. -/
abbrev Memory := List Host.Cell

/-- What an address that is not listed reads as (10_state R36 "all LEN bytes 0"; log 8). -/
def Memory.unlisted : Byte := 0

/-- `BUF[a]`. -/
def Memory.read (m : Memory) (a : Nat) : Byte :=
  match m with
  | [] => Memory.unlisted
  | (k, b) :: rest => if k = a then b else Memory.read rest a

/-- Puts one cell in front, unless it holds what an unlisted address reads as. -/
def Memory.cons (a : Nat) (b : Byte) (m : Memory) : Memory :=
  if b = Memory.unlisted then m else (a, b) :: m

/-- `BUF[a] <- b`, keeping the canonical form. -/
def Memory.write (m : Memory) (a : Nat) (b : Byte) : Memory :=
  match m with
  | [] => Memory.cons a b []
  | (k, v) :: rest =>
    if a < k then Memory.cons a b ((k, v) :: rest)
    else if a = k then Memory.cons a b rest
    else (k, v) :: Memory.write rest a b

/-- `MemRead(a, n)`: the bytes at `a .. a+n-1`, lowest address first (00_scope R9). -/
def Memory.readBytes (m : Memory) (a : Nat) : Nat → List Byte
  | 0 => []
  | n + 1 => m.read a :: Memory.readBytes m (a + 1) n

/-- `MemWrite(a, len(bs), bs)`: byte `i` of `bs` goes to address `a + i` (00_scope R9). -/
def Memory.writeBytes (m : Memory) (a : Nat) : List Byte → Memory
  | [] => m
  | b :: bs => Memory.writeBytes (m.write a b) (a + 1) bs

/-- The memory that holds `bs` from address `a` on and zeros elsewhere. -/
def Memory.ofBytesFrom (a : Nat) : List Byte → Memory
  | [] => []
  | b :: bs => Memory.cons a b (Memory.ofBytesFrom (a + 1) bs)

/-- The contents of BUF after construction from the byte list `bs` (70_reset R230). -/
def Memory.ofBytes (bs : List Byte) : Memory := Memory.ofBytesFrom 0 bs

/-- Every listed address is at least `lo`, addresses rise strictly and no listed byte is 0. -/
def Memory.wfFrom (lo : Nat) : Memory → Bool
  | [] => true
  | (a, b) :: rest => lo ≤ a && b != Memory.unlisted && Memory.wfFrom (a + 1) rest

/-- The canonical form. -/
def Memory.wf (m : Memory) : Bool := Memory.wfFrom 0 m

/-- Every listed address exists: it is below LEN (20_memory R40). -/
def Memory.below (len : Nat) (m : Memory) : Bool := m.all fun cell => cell.1 < len

end Sys2Proof.Machine
end

