-- ==== Sys2Proof/Machine/State.lean ====
section
/-! DEFINITION. Machine/State.lean: the block's state (10_state R20 to R36), with the host's writes still to come as an input
list (70_reset R231, R234; log 1), the reasons a step can stop, and the state after reset (10_state R36, 70_reset R230). -/

namespace Sys2Proof.Machine

/-- An operand register. `noValue` is the state R36 gives it after reset ("no value"): the host has not written it since reset
(10_state R36; log 3). -/
inductive OperandReg (α : Type) where
  | noValue
  | holds (v : α)
deriving DecidableEq, Repr

/-- One thing the host does between commands that the block sees: it writes an operand register, or it writes CMD and so issues
a command (70_reset R232, R234). -/
inductive HostWrite where
  | off (o : Nat)
  | val (v : Bits64)
  | tin (t : List CodePoint)
  | bin (b : List Byte)
  | cmd (w : CommandWord)
deriving DecidableEq, Repr

/-- The block's state, and the host's side of it. No command writes `len`, `params`, `cmd`, `off`, `val`, `tin`, `bin` or `csp`. -/
structure State where
  /-- ADDR_W, F32_TIES, NEG_ZERO_WRITE: fixed for the life of the instance (00_scope R5). -/
  params : Params
  /-- LEN (R21). -/
  len : Nat
  /-- BUF (R20). -/
  buf : Memory
  /-- CMD (R22). -/
  cmd : OperandReg CommandWord
  /-- OFF, ADDR_W bits (R23). -/
  off : OperandReg Nat
  /-- VAL (R24). -/
  val : OperandReg Bits64
  /-- TIN (R25). -/
  tin : OperandReg (List CodePoint)
  /-- BIN (R26). -/
  bin : OperandReg (List Byte)
  /-- RESULT (R27). -/
  result : Bits64
  /-- STATUS (R28). -/
  status : BitVec 4
  /-- TOUT (R29). -/
  tout : List CodePoint
  /-- BOUT (R29). -/
  bout : List Byte
  /-- UNDEF (R30). -/
  undef : Bool
  /-- CSP, the host's command-stream position (R33; log 11). -/
  csp : Nat
  /-- The host writes still to come (the model's own field; log 1). -/
  script : List HostWrite
  /-- How many draws have been made (the model's own field; log 6). -/
  draws : Nat
deriving DecidableEq, Repr

/-- The operand registers a command can read (30_encoding R61). -/
inductive OperandName where
  | off
  | val
  | tin
  | bin
deriving DecidableEq, Repr

/-- The cases in which a command ends in `undefined` (60_exceptions R214). -/
inductive UndefinedCase where
  /-- Case 1: a write with A = 0 and OV = 0. -/
  | offsetAbsent
  /-- Case 1: a write with A = 0 and OFF + n > LEN. -/
  | offsetOutOfBounds
  /-- Case 2: a command that reads an operand register the host has not written since reset. -/
  | unwritten (r : OperandName)
deriving DecidableEq, Repr

/-- The reasons a step stops with a fault. -/
inductive Fault where
  /-- Raised by a command that ends in `undefined` (60_exceptions R214): `after` is the faulted state, with UNDEF = 1 and the
  components R214 calls unconstrained drawn. Safe: R214 gives the block no further step. -/
  | undefinedOutcome (why : UndefinedCase) (after : State)
  /-- Raised by a step from a state with UNDEF = 1: the faulted block takes no further command (60_exceptions R214). Safe. -/
  | blockFaulted
deriving DecidableEq, Repr

/-- The reasons a step is refused. -/
inductive Refusal where
  /-- Raised by `exec` for a command that has no meaning yet; no arm answers it in this model. Safe. -/
  | notModelled (mnemonic : String)
  /-- Raised by a host write of an offset of more than ADDR_W bits, which cannot be presented (10_state R23; log 9). Safe. -/
  | offsetNotPresentable (o : Nat)
deriving DecidableEq, Repr

/-- What a command or a step answers. -/
abbrev Result := Host.Outcome State Fault Refusal

/-- `reset_from_image(img)` of an instance with parameters `p` (70_reset R230). -/
def State.resetFromImage (p : Params) (img : List Byte) : State where
  params := p
  len := img.length
  buf := Memory.ofBytes img
  cmd := .noValue
  off := .noValue
  val := .noValue
  tin := .noValue
  bin := .noValue
  result := 0
  status := 0
  tout := []
  bout := []
  undef := false
  csp := 0
  script := []
  draws := 0

/-- `reset_from_count(n)` of an instance with parameters `p` (70_reset R230): `n` zero bytes. -/
def State.resetFromCount (p : Params) (n : Nat) : State :=
  { State.resetFromImage p [] with len := n }

/-- The machine right after reset: construction with the open parameters of Config (00_scope R5, 10_state R36; log 7). -/
def State.reset : State := State.resetFromImage Config.params Config.initImage

end Sys2Proof.Machine
end

