-- ==== Sys2Proof/Machine/Flags.lean ====
section
/-! DEFINITION. Machine/Flags.lean: STATUS, the block's only flag state (10_state R28): the error kinds and their codes
(60_exceptions R200). -/

namespace Sys2Proof.Machine

/-- BJS's error kinds in BJS's order, and the spec's own IllegalCommand (60_exceptions R200). -/
inductive ErrorKind where
  /-- Never raised by the block (60_exceptions R215). -/
  | invalidSource
  | unsupportedEncoding
  | malformedInput
  | illegalCharacter
  | rangeError
  | typeError
  | fractionalValueError
  | illegalCommand
deriving DecidableEq, Repr

/-- `code(E)` (60_exceptions R200). -/
def ErrorKind.code : ErrorKind → BitVec 4
  | .invalidSource => 1
  | .unsupportedEncoding => 2
  | .malformedInput => 3
  | .illegalCharacter => 4
  | .rangeError => 5
  | .typeError => 6
  | .fractionalValueError => 7
  | .illegalCommand => 8

/-- `STATUS <- c`. -/
def State.setStatus (c : BitVec 4) (s : State) : State := { s with status := c }

end Sys2Proof.Machine
end

