-- ==== Sys2Proof/Machine/Numbers.lean ====
section
/-! DEFINITION. Machine/Numbers.lean: binary64 and binary32 patterns and the conversions between them (00_scope R7; 45_float R170
to R175). A finite binary64 number is held exactly, as a sign and a natural number of units of `2^-1074`, the least positive
binary64 number: every finite binary64 (and so every binary32) number is a multiple of it (log 13). -/

namespace Sys2Proof.Machine

/-- The number 1 in units of `2^-1074`. -/
def oneUnits : Nat := 2 ^ 1074

/-- A binary64 number: what `f64(b)` of 00_scope R7 gives, +0 and -0 distinct. -/
inductive F64 where
  | nan
  | inf (neg : Bool)
  /-- `(-1)^neg * units * 2^-1074`. -/
  | fin (neg : Bool) (units : Nat)
deriving DecidableEq, Repr

/-- The sign bit, biased exponent and fraction of a binary64 pattern (45_float R171). -/
def sign64 (b : Bits64) : Bool := b.getLsbD 63
def exp64 (b : Bits64) : Nat := (b.extractLsb' 52 11).toNat
def frac64 (b : Bits64) : Nat := (b.extractLsb' 0 52).toNat

/-- A binary64 pattern from its three fields (45_float R171). -/
def pack64 (neg : Bool) (e f : Nat) : Bits64 :=
  BitVec.ofBool neg ++ (BitVec.ofNat 11 e ++ BitVec.ofNat 52 f)

/-- `f64(b)` (00_scope R7), by the layout of R171: in units of `2^-1074` a normal number is `(2^52 + F) * 2^(E - 1)` and a
subnormal one is `F`. -/
def f64 (b : Bits64) : F64 :=
  if exp64 b = 2047 then
    if frac64 b = 0 then .inf (sign64 b) else .nan
  else if exp64 b = 0 then .fin (sign64 b) (frac64 b)
  else .fin (sign64 b) ((2 ^ 52 + frac64 b) * 2 ^ (exp64 b - 1))

/-- `bits64(v)` for a finite `v` of `units` units of `2^-1074` that is a binary64 number: exact, no rounding (00_scope R7). -/
def bits64 (neg : Bool) (units : Nat) : Bits64 :=
  if units < 2 ^ 52 then pack64 neg 0 units
  else
    let e := units.log2 - 51
    pack64 neg e (units / 2 ^ (e - 1) - 2 ^ 52)

/-- `bits64(x)` for an integer `x` (00_scope R7: exact for `|x| <= 2^53`). -/
def bits64Int (x : Int) : Bits64 := bits64 (x < 0) (x.natAbs * oneUnits)

/-- `bits64(+inf)` and `bits64(-inf)`. -/
def bits64Inf (neg : Bool) : Bits64 := pack64 neg 2047 0

/-- The NaN a drawn pattern stands for: the pattern itself if it is a NaN, else one with its sign and fraction made a NaN. Every
binary64 NaN is the NaN of some pattern (log 6). -/
def nan64Of (d : Bits64) : Bits64 := pack64 (sign64 d) 2047 (if frac64 d = 0 then 1 else frac64 d)

/-- The sign bit, biased exponent and fraction of a binary32 pattern (45_float R170). -/
def sign32 (p : Bits32) : Bool := p.getLsbD 31
def exp32 (p : Bits32) : Nat := (p.extractLsb' 23 8).toNat
def frac32 (p : Bits32) : Nat := (p.extractLsb' 0 23).toNat

/-- A binary32 pattern from its three fields (45_float R170). -/
def pack32 (neg : Bool) (e f : Nat) : Bits32 :=
  BitVec.ofBool neg ++ (BitVec.ofNat 8 e ++ BitVec.ofNat 23 f)

/-- As `nan64Of`, for binary32 (log 6). -/
def nan32Of (d : Bits32) : Bits32 := pack32 (sign32 d) 255 (if frac32 d = 0 then 1 else frac32 d)

/-- The pattern is a NaN: exponent all ones, fraction not 0 (45_float R170, R171). -/
def isNaN64 (b : Bits64) : Bool := exp64 b == 2047 && frac64 b != 0
def isNaN32 (p : Bits32) : Bool := exp32 p == 255 && frac32 p != 0

/-- `2^-149` in units of `2^-1074`: the least positive binary32 number. -/
def minSub32Log : Nat := 925

/-- `2^-126` in units of `2^-1074`: the least normal binary32 number. -/
def minNorm32Log : Nat := 948

/-- `MAXF32 = (2 - 2^-23) * 2^127` in units of `2^-1074` (45_float R170). -/
def maxF32Units : Nat := (2 ^ 24 - 1) * 2 ^ (104 + 1074)

/-- The largest finite binary64 magnitude, `(2 - 2^-52) * 2^1023`, in units of `2^-1074` (45_float R171). -/
def maxF64Units : Nat := (2 ^ 53 - 1) * 2 ^ (971 + 1074)

/-- `f32_unpack(p)` (45_float R172); `nan` is the drawn NaN. -/
def f32Unpack (p : Bits32) (nan : Bits64) : Bits64 :=
  if exp32 p = 255 then
    if frac32 p ≠ 0 then nan else bits64Inf (sign32 p)
  else if exp32 p = 0 then bits64 (sign32 p) (frac32 p * 2 ^ minSub32Log)
  else bits64 (sign32 p) ((2 ^ 23 + frac32 p) * 2 ^ (exp32 p + (minSub32Log - 1)))

/-- `round_nearest(num / den)` (45_float R174). -/
def roundNearest (ties : Ties) (num den : Nat) : Nat :=
  let f := num / den
  let d := num % den
  if 2 * d > den then f + 1
  else if 2 * d < den then f
  else
    match ties with
    | .away => f + 1
    | .even => if f % 2 = 0 then f else f + 1

/-- The magnitude part of `f32_pack` (45_float R173): rounds `units` units of `2^-1074` (not 0) to a multiple of the quantum of
its binade, and gives the sign, exponent and fraction of the result. -/
def f32PackFinite (ties : Ties) (neg : Bool) (units : Nat) : Bits32 :=
  let e := units.log2
  let q := if e ≥ minNorm32Log then 2 ^ (e - 23) else 2 ^ minSub32Log
  let r := roundNearest ties units q * q
  if r ≥ 2 ^ minNorm32Log then
    let E := r.log2 - (minNorm32Log - 1)
    pack32 neg E (r / 2 ^ (E + (minSub32Log - 1)) - 2 ^ 23)
  else pack32 neg 0 (r / 2 ^ minSub32Log)

/-- `f32_pack(v)` (45_float R173); `nan` is the drawn NaN pattern. -/
def f32Pack (p : Params) (v : F64) (nan : Bits32) : Bits32 :=
  match v with
  | .nan => nan
  | .inf neg => pack32 neg 255 0
  | .fin neg units =>
    if units = 0 then
      match neg, p.negZeroWrite with
      | true, .keepSign => pack32 true 0 0
      | _, _ => 0
    else f32PackFinite p.f32Ties neg units

/-- `f64_unpack(p)` (45_float R175); `nan` is the drawn NaN. -/
def f64Unpack (b nan : Bits64) : Bits64 := if isNaN64 b then nan else b

/-- `f64_pack(v)` for the value `v` of the pattern `b` (45_float R175); `nan` is the drawn NaN pattern. -/
def f64Pack (p : Params) (b nan : Bits64) : Bits64 :=
  match f64 b, p.negZeroWrite with
  | .nan, _ => nan
  | .fin true 0, .clearSign => 0
  | _, _ => b

end Sys2Proof.Machine
end

