-- ==== Sys2Proof/Machine/Ops.lean ====
section
/-! DEFINITION. Machine/Ops.lean: the named operations over the state: the register writes, MemRead and MemWrite (00_scope R9),
the three ends of a command (`done` R202, `raise` R201, `undefined` R214) and the draws. `raise` is the block's whole counterpart
of taking an exception; there is no return from one (60_exceptions R205, R206). -/

namespace Sys2Proof.Machine

/-- `RESULT <- r`. -/
def State.setResult (r : Bits64) (s : State) : State := { s with result := r }

/-- `TOUT <- t`. -/
def State.setTout (t : List CodePoint) (s : State) : State := { s with tout := t }

/-- `BOUT <- b`. -/
def State.setBout (b : List Byte) (s : State) : State := { s with bout := b }

/-- `MemRead(a, n)` (00_scope R9). -/
def State.memRead (s : State) (a n : Nat) : List Byte := s.buf.readBytes a n

/-- `MemWrite(a, len(bs), bs)` (00_scope R9). -/
def State.memWrite (a : Nat) (bs : List Byte) (s : State) : State := { s with buf := s.buf.writeBytes a bs }

/-- Counts a draw, so that the next one is another free value (log 6). -/
def State.drew (s : State) : State := { s with draws := s.draws + 1 }

/-- Counts a draw if one was made. -/
def State.drewIf (c : Bool) (s : State) : State := if c then s.drew else s

/-- `done` (60_exceptions R202): the command ends with STATUS 0. -/
def State.done (s : State) : State := s.setStatus 0

/-- Which output stream a command replaces, and so empties when it raises (10_state R29, 60_exceptions R201). -/
inductive OutStream where
  | none
  | bout
  | tout
deriving DecidableEq, Repr

/-- `raise E` (60_exceptions R201): STATUS takes E's code, the command's own output stream becomes empty, nothing else changes. -/
def State.raise (o : OutStream) (e : ErrorKind) (s : State) : State :=
  match o with
  | .none => s.setStatus e.code
  | .bout => (s.setBout []).setStatus e.code
  | .tout => (s.setTout []).setStatus e.code

/-- The faulted state of `undefined` (60_exceptions R214): UNDEF = 1; BUF, RESULT, STATUS, TOUT and BOUT are unconstrained (drawn;
BUF keeps its LEN cells); every other component is as it was (log 5). -/
def State.faulted (s : State) : State :=
  { s with
    undef := true
    buf := Memory.ofBytes ((Config.undefinedBuf s.draws).take s.len)
    result := Config.undefinedResult s.draws
    status := Config.undefinedStatus s.draws
    tout := Config.undefinedTout s.draws
    bout := Config.undefinedBout s.draws
    draws := s.draws + 1 }

/-- `undefined` (00_scope R9, 60_exceptions R214): a fault, with the faulted state. R214 says that the block "takes no further command
(no step)" and that a model represents this as a fault; its two cases are the rows `fault` of 93_implementation_defined (U2, U11). -/
def State.undefinedOutcome (why : UndefinedCase) (s : State) : Result := .fault (.undefinedOutcome why s.faulted)

/-- The end of a read whose offset is bad with A = 0 (44_integer R133): RESULT is drawn, STATUS 0, BUF unchanged. -/
def State.drawnResult (s : State) : State := ((s.setResult (Config.drawResult s.draws)).drew).done

/-- `n` drawn bytes (44_integer R134). -/
def drawnByteList (k n : Nat) : List Byte := (List.range n).map (Config.drawByte k)

/-- The end of a write with A = 0 whose value is bad at a good offset (44_integer R134, 45_float R176): `n` drawn bytes at
`a .. a+n-1`, STATUS 0, nothing else. -/
def State.drawnBytes (a n : Nat) (s : State) : State := ((s.memWrite a (drawnByteList s.draws n)).drew).done

/-- The drawn NaNs of 45_float R172, R173 and R175. -/
def State.drawNaN64 (s : State) : Bits64 := nan64Of (Config.drawNaN64 s.draws)
def State.drawNaN32 (s : State) : Bits32 := nan32Of (Config.drawNaN32 s.draws)

/-- An ILLEGAL word (60_exceptions R216): STATUS 8 and nothing else. -/
def State.illegalCommand (s : State) : State := s.raise .none .illegalCommand

/-- The host's write of CMD arrives: CMD holds the word, and the host's command-stream position advances by 1 whatever the
command's STATUS (70_reset R232, 10_state R33). -/
def State.latch (w : CommandWord) (s : State) : State := { s with cmd := .holds w, csp := s.csp + 1 }

/-- The host's next write leaves the script. -/
def State.withScript (rest : List HostWrite) (s : State) : State := { s with script := rest }

/-- The host writes OFF (10_state R23); an offset of more than ADDR_W bits cannot be presented (log 9). -/
def State.hostOff (o : Nat) (s : State) : Result :=
  if offsetFits s.params o then .next { s with off := .holds o } else .refused (.offsetNotPresentable o)

/-- The host writes VAL (10_state R24). -/
def State.hostVal (v : Bits64) (s : State) : State := { s with val := .holds v }

/-- The host writes TIN (10_state R25). -/
def State.hostTin (t : List CodePoint) (s : State) : State := { s with tin := .holds t }

/-- The host writes BIN (10_state R26). -/
def State.hostBin (b : List Byte) (s : State) : State := { s with bin := .holds b }

end Sys2Proof.Machine
end

