-- ==== Sys2Proof/Machine/Operands.lean ====
section
/-! DEFINITION. Machine/Operands.lean: the operand forms (30_encoding R61, R62), byte order (20_memory R43), the integer types
(44_integer R130, R132) and the checks every numeric command makes (44_integer R133, R134; 45_float R176, R177). -/

namespace Sys2Proof.Machine

/-! ## Operands from the registers -/

/-- The value of an operand register, or `undefined` when the host has not written it since reset (60_exceptions R214 case 2). -/
def readOperand {α : Type} (name : OperandName) (r : OperandReg α) (s : State) : Except Result α :=
  match r with
  | .noValue => .error (s.undefinedOutcome (.unwritten name))
  | .holds v => .ok v

/-- The value of an operand register if the command word says it is present (30_encoding R61): absent operands are not read. -/
def readIf {α : Type} (present : Bool) (name : OperandName) (r : OperandReg α) (s : State) : Except Result (Option α) :=
  if present then (readOperand name r s).map some else .ok none

/-- `OFF when OV = 1` (R61). -/
def offsetOperand (c : Ctl) (s : State) : Except Result (Option Nat) := readIf c.ov .off s.off s

/-- `VAL when VV = 1` (R61). -/
def valueOperand (c : Ctl) (s : State) : Except Result (Option Bits64) := readIf c.vv .val s.val s

/-- `TIN when TV = 1`, the selector name of ENCSEL (R61). -/
def nameOperand (c : Ctl) (s : State) : Except Result (Option (List CodePoint)) := readIf c.tv .tin s.tin s

/-- TIN, for a text-to-bytes command (R61). -/
def textOperand (s : State) : Except Result (List CodePoint) := readOperand .tin s.tin s

/-- BIN, for a bytes-to-text command (R61). -/
def bytesOperand (s : State) : Except Result (List Byte) := readOperand .bin s.bin s

/-! ## Byte order -/

inductive Endian where
  | little
  | big
deriving DecidableEq, Repr

/-- `le_val(bs)` (20_memory R43). -/
def leVal : List Byte → Nat
  | [] => 0
  | b :: bs => b.toNat + 256 * leVal bs

/-- `be_val(bs)` (20_memory R43). -/
def beVal (bs : List Byte) : Nat := leVal bs.reverse

/-- The pattern a read of these bytes sees (20_memory R43). -/
def Endian.val : Endian → List Byte → Nat
  | .little, bs => leVal bs
  | .big, bs => beVal bs

/-- The `n` bytes of the pattern `x`, least significant first (20_memory R43). -/
def leBytes : Nat → Nat → List Byte
  | 0, _ => []
  | n + 1, x => BitVec.ofNat 8 x :: leBytes n (x / 256)

/-- The `n` bytes of the pattern `x`, lowest address first (20_memory R43). -/
def Endian.bytes : Endian → Nat → Nat → List Byte
  | .little, n, x => leBytes n x
  | .big, n, x => (leBytes n x).reverse

/-! ## Integer types -/

/-- The six integer types (44_integer R130). -/
inductive IntType where
  | u8 | i8 | u16 | i16 | u32 | i32
deriving DecidableEq, Repr

/-- `n`, the width in bytes (R130). -/
def IntType.bytes : IntType → Nat
  | .u8 | .i8 => 1
  | .u16 | .i16 => 2
  | .u32 | .i32 => 4

def IntType.bits (t : IntType) : Nat := 8 * t.bytes

def IntType.signed : IntType → Bool
  | .i8 | .i16 | .i32 => true
  | .u8 | .u16 | .u32 => false

/-- `MIN` (R130). -/
def IntType.min : IntType → Int
  | .u8 | .u16 | .u32 => 0
  | .i8 => -128
  | .i16 => -32768
  | .i32 => -2147483648

/-- `MAX` (R130). -/
def IntType.max : IntType → Int
  | .u8 => 255
  | .i8 => 127
  | .u16 => 65535
  | .i16 => 32767
  | .u32 => 4294967295
  | .i32 => 2147483647

/-- Two's-complement adjustment on a read (44_integer R132): `sext_bits(u)` for a signed type, `u` for an unsigned one. -/
def IntType.ofPattern (t : IntType) (u : Nat) : Int :=
  if t.signed = true ∧ u ≥ 2 ^ (t.bits - 1) then (u : Int) - 2 ^ t.bits else u

/-- The pattern stored for an integer (44_integer R132): `2^bits + x` when `x < 0`, `x` otherwise. -/
def IntType.toPattern (t : IntType) (x : Int) : Nat :=
  if x < 0 then (2 ^ t.bits + x).toNat else x.toNat

/-! ## Checks -/

/-- `read_check(n)` (44_integer R133, 45_float R177): the offset, or the command's end. -/
def readCheck (n : Nat) (c : Ctl) (s : State) : Except Result Nat :=
  match offsetOperand c s with
  | .error r => .error r
  | .ok none => .error (.next (if c.a then s.raise .none .typeError else s.drawnResult))
  | .ok (some o) =>
    if o + n ≤ s.len then .ok o
    else .error (.next (if c.a then s.raise .none .rangeError else s.drawnResult))

/-- The write checks with A = 1 (44_integer R134, 45_float R176), in their order: offset present, value present, offset in
bounds, then the judgement of the value that the type makes. -/
def checkedWrite {α : Type} (n : Nat) (judge : Bits64 → Except ErrorKind α) (off : Option Nat) (val : Option Bits64)
    (s : State) : Except Result (Nat × α) :=
  match off, val with
  | none, _ => .error (.next (s.raise .none .typeError))
  | some _, none => .error (.next (s.raise .none .typeError))
  | some o, some b =>
    if o + n ≤ s.len then
      match judge b with
      | .error e => .error (.next (s.raise .none e))
      | .ok x => .ok (o, x)
    else .error (.next (s.raise .none .rangeError))

/-- The same with A = 0: a bad offset is `undefined`, a bad or missing value at a good offset stores drawn bytes. -/
def uncheckedWrite {α : Type} (n : Nat) (judge : Bits64 → Except ErrorKind α) (off : Option Nat) (val : Option Bits64)
    (s : State) : Except Result (Nat × α) :=
  match off with
  | none => .error (s.undefinedOutcome .offsetAbsent)
  | some o =>
    if o + n ≤ s.len then
      match val with
      | none => .error (.next (s.drawnBytes o n))
      | some b =>
        match judge b with
        | .error _ => .error (.next (s.drawnBytes o n))
        | .ok x => .ok (o, x)
    else .error (s.undefinedOutcome .offsetOutOfBounds)

/-- The check of every write command: its operands (30_encoding R61), then the checks of its mode. -/
def writeCheck {α : Type} (n : Nat) (judge : Bits64 → Except ErrorKind α) (c : Ctl) (s : State) : Except Result (Nat × α) :=
  match offsetOperand c s, valueOperand c s with
  | .error r, _ => .error r
  | .ok _, .error r => .error r
  | .ok off, .ok val => if c.a then checkedWrite n judge off val s else uncheckedWrite n judge off val s

/-- The value check of an integer write (44_integer R134): NaN, the infinities and every number outside `[min, max]` are
RangeError; then a number that is not an integer is FractionalValueError. The number is `z * 2^-1074`. -/
def judgeInt (min max : Int) (b : Bits64) : Except ErrorKind Int :=
  match f64 b with
  | .nan => .error .rangeError
  | .inf _ => .error .rangeError
  | .fin neg units =>
    let z : Int := if neg then -(units : Int) else units
    if z < min * oneUnits ∨ z > max * oneUnits then .error .rangeError
    else if units % oneUnits ≠ 0 then .error .fractionalValueError
    else .ok (if neg then -((units / oneUnits : Nat) : Int) else ((units / oneUnits : Nat) : Int))

/-- The value check of a float write (45_float R176): only a finite number beyond the width's largest magnitude is refused. -/
def judgeFloat (maxUnits : Nat) (b : Bits64) : Except ErrorKind Bits64 :=
  match f64 b with
  | .fin _ units => if units > maxUnits then .error .rangeError else .ok b
  | _ => .ok b

/-- `write_check_int(n, MIN, MAX)` (44_integer R134). -/
def writeCheckInt (t : IntType) (c : Ctl) (s : State) : Except Result (Nat × Int) :=
  writeCheck t.bytes (judgeInt t.min t.max) c s

/-- `write_check_float(n, MAXMAG)` (45_float R176). -/
def writeCheckFloat (n maxUnits : Nat) (c : Ctl) (s : State) : Except Result (Nat × Bits64) :=
  writeCheck n (judgeFloat maxUnits) c s

end Sys2Proof.Machine
end

