-- ==== Sys2Proof/Machine/Text.lean ====
section
/-! DEFINITION. Machine/Text.lean: the shape shared by the text commands: read TIN or BIN, deliver the codec's answer
(10_state R29, 60_exceptions R201, R202). -/

namespace Sys2Proof.Machine

/-- A text-to-bytes command: BOUT takes the codec's bytes, or the codec's error is raised and BOUT becomes empty. -/
def textToBytes (codec : List CodePoint → Except ErrorKind (List Byte)) (s : State) : Result :=
  match textOperand s with
  | .error r => r
  | .ok t =>
    match codec t with
    | .ok bs => .next ((s.setBout bs).done)
    | .error e => .next (s.raise .bout e)

/-- A bytes-to-text command that cannot fail: TOUT takes the codec's text. -/
def bytesToText (codec : List Byte → List CodePoint) (s : State) : Result :=
  match bytesOperand s with
  | .error r => r
  | .ok bs => .next ((s.setTout (codec bs)).done)

end Sys2Proof.Machine
end

