-- ==== Sys2Proof/Machine/Base64.lean ====
section
/-! DEFINITION. Machine/Base64.lean: B64DEC and B64ENC (41_base64 R90 to R92) over the alphabet of 10_state R31. -/

namespace Sys2Proof.Machine

/-- `B64_ALPHABET` (10_state R31): 'A'..'Z', 'a'..'z', '0'..'9', '+', '/'. -/
def b64Alphabet : List CodePoint :=
  (List.range 26).map (fun i => BitVec.ofNat 31 (0x41 + i)) ++
  (List.range 26).map (fun i => BitVec.ofNat 31 (0x61 + i)) ++
  (List.range 10).map (fun i => BitVec.ofNat 31 (0x30 + i)) ++ [0x2B, 0x2F]

/-- `B64_INDEX(c)` (10_state R31). -/
def b64Index (c : CodePoint) : Option Nat := b64Alphabet.idxOf? c

/-- The padding character '='. -/
def b64Pad : CodePoint := 0x3D

/-- `B64_ALPHABET[i]`. -/
def b64Char (i : Nat) : CodePoint := b64Alphabet.getD i b64Pad

/-- The three bytes of a group of four symbol values (41_base64 R90). -/
def b64GroupBytes (c0 c1 c2 c3 : Nat) : List Byte :=
  [BitVec.ofNat 8 ((c0 <<< 2) ||| (c1 >>> 4)), BitVec.ofNat 8 ((c1 <<< 4) ||| (c2 >>> 2)), BitVec.ofNat 8 ((c2 <<< 6) ||| c3)]

/-- The symbol value of a character, 0 for '=' (41_base64 R91). -/
def b64Value (c : CodePoint) : Nat := (b64Index c).getD 0

/-- The bytes of every group of four characters, three for each group. -/
def b64Groups : List CodePoint → List Byte
  | t0 :: t1 :: t2 :: t3 :: rest => b64GroupBytes (b64Value t0) (b64Value t1) (b64Value t2) (b64Value t3) ++ b64Groups rest
  | _ => []

/-- The number of trailing '=' of a text (41_base64 R91). -/
def b64Padding (t : List CodePoint) : Nat := (t.reverse.takeWhile (· == b64Pad)).length

/-- B64DEC's answer for a text (41_base64 R91): the checks in their order (length, padding, alphabet left to right), then the
bytes of the groups, less one byte of the final group for each padding character. -/
def b64Decode (t : List CodePoint) : Except ErrorKind (List Byte) :=
  if t.length % 4 ≠ 0 then .error .malformedInput
  else
    let p := b64Padding t
    let body := t.take (t.length - p)
    if p > 2 then .error .malformedInput
    else if body.contains b64Pad then .error .malformedInput
    else if body.any (fun c => (b64Index c).isNone) then .error .illegalCharacter
    else
      let out := b64Groups t
      .ok (out.take (out.length - p))

/-- The symbols of a group of three bytes (41_base64 R92). -/
def b64GroupChars (b0 b1 b2 : Nat) : List CodePoint :=
  [b64Char (b0 >>> 2), b64Char (((b0 <<< 4) ||| (b1 >>> 4)) &&& 63), b64Char (((b1 <<< 2) ||| (b2 >>> 6)) &&& 63),
    b64Char (b2 &&& 63)]

/-- B64ENC's answer for a byte list (41_base64 R92). -/
def b64Encode : List Byte → List CodePoint
  | [] => []
  | [b0] => [b64Char (b0.toNat >>> 2), b64Char ((b0.toNat <<< 4) &&& 63), b64Pad, b64Pad]
  | [b0, b1] =>
    [b64Char (b0.toNat >>> 2), b64Char (((b0.toNat <<< 4) ||| (b1.toNat >>> 4)) &&& 63), b64Char ((b1.toNat <<< 2) &&& 63),
      b64Pad]
  | b0 :: b1 :: b2 :: rest => b64GroupChars b0.toNat b1.toNat b2.toNat ++ b64Encode rest

/-- `B64DEC` (41_base64 R91). -/
def execB64dec (_c : Ctl) (s : State) : Result := textToBytes b64Decode s

/-- `B64ENC` (41_base64 R92). -/
def execB64enc (_c : Ctl) (s : State) : Result := bytesToText b64Encode s

end Sys2Proof.Machine
end

