-- ==== Sys2Proof/Machine/Block.lean ====
section
/-! DEFINITION. Machine/Block.lean: the block-control commands LENGTH and ENCSEL (40_block R80 to R82). -/

namespace Sys2Proof.Machine

/-- `LENGTH` (40_block R80): `RESULT <- bits64(LEN)`. -/
def execLength (_c : Ctl) (s : State) : Result := .next ((s.setResult (bits64Int s.len)).done)

/-- `fold` of one code point: an ASCII capital becomes its small letter (40_block R82). -/
def foldCodePoint (p : CodePoint) : CodePoint := if 0x41 ≤ p ∧ p ≤ 0x5A then p + 0x20 else p

/-- `fold(s)` (40_block R82). -/
def fold (t : List CodePoint) : List CodePoint := t.map foldCodePoint

/-- The three selector names, as code points (40_block R81, 00_scope R8). -/
def nameBase64 : List CodePoint := [0x62, 0x61, 0x73, 0x65, 0x36, 0x34]
def nameHex : List CodePoint := [0x68, 0x65, 0x78]
def nameUtf8 : List CodePoint := [0x75, 0x74, 0x66, 0x38]

/-- The `ENC` code of a selector name, or UnsupportedEncoding (40_block R81). -/
def encodingCode (name : Option (List CodePoint)) : Except ErrorKind Int :=
  match name with
  | none => .ok 2
  | some t =>
    if fold t = nameBase64 then .ok 0
    else if fold t = nameHex then .ok 1
    else if fold t = nameUtf8 then .ok 2
    else .error .unsupportedEncoding

/-- `ENCSEL` (40_block R81). -/
def execEncsel (c : Ctl) (s : State) : Result :=
  match nameOperand c s with
  | .error r => r
  | .ok name =>
    match encodingCode name with
    | .ok k => .next ((s.setResult (bits64Int k)).done)
    | .error e => .next (s.raise .none e)

end Sys2Proof.Machine
end

