-- ==== Sys2Proof/Machine/Float.lean ====
section
/-! DEFINITION. Machine/Float.lean: the 8 float commands (45_float R172 to R187). -/

namespace Sys2Proof.Machine

/-- The single-precision reads' common rule (45_float R180, R181). -/
def readF32 (e : Endian) (c : Ctl) (s : State) : Result :=
  match readCheck 4 c s with
  | .error r => r
  | .ok o =>
    let p : Bits32 := BitVec.ofNat 32 (e.val (s.memRead o 4))
    .next (((s.setResult (f32Unpack p s.drawNaN64)).drewIf (isNaN32 p)).done)

/-- The double-precision reads' common rule (45_float R182, R183). -/
def readF64 (e : Endian) (c : Ctl) (s : State) : Result :=
  match readCheck 8 c s with
  | .error r => r
  | .ok o =>
    let p : Bits64 := BitVec.ofNat 64 (e.val (s.memRead o 8))
    .next (((s.setResult (f64Unpack p s.drawNaN64)).drewIf (isNaN64 p)).done)

/-- The single-precision writes' common rule (45_float R184, R185). -/
def writeF32 (e : Endian) (c : Ctl) (s : State) : Result :=
  match writeCheckFloat 4 maxF32Units c s with
  | .error r => r
  | .ok (o, b) =>
    let p := f32Pack s.params (f64 b) s.drawNaN32
    .next (((s.memWrite o (e.bytes 4 p.toNat)).drewIf (isNaN64 b)).done)

/-- The double-precision writes' common rule (45_float R186, R187). -/
def writeF64 (e : Endian) (c : Ctl) (s : State) : Result :=
  match writeCheckFloat 8 maxF64Units c s with
  | .error r => r
  | .ok (o, b) =>
    let p := f64Pack s.params b s.drawNaN64
    .next (((s.memWrite o (e.bytes 8 p.toNat)).drewIf (isNaN64 b)).done)

/-- `READ.F32LE` (45_float R180). -/
def execReadF32LE (c : Ctl) (s : State) : Result := readF32 .little c s

/-- `READ.F32BE` (45_float R181). -/
def execReadF32BE (c : Ctl) (s : State) : Result := readF32 .big c s

/-- `READ.F64LE` (45_float R182). -/
def execReadF64LE (c : Ctl) (s : State) : Result := readF64 .little c s

/-- `READ.F64BE` (45_float R183). -/
def execReadF64BE (c : Ctl) (s : State) : Result := readF64 .big c s

/-- `WRITE.F32LE` (45_float R184). -/
def execWriteF32LE (c : Ctl) (s : State) : Result := writeF32 .little c s

/-- `WRITE.F32BE` (45_float R185). -/
def execWriteF32BE (c : Ctl) (s : State) : Result := writeF32 .big c s

/-- `WRITE.F64LE` (45_float R186). -/
def execWriteF64LE (c : Ctl) (s : State) : Result := writeF64 .little c s

/-- `WRITE.F64BE` (45_float R187). -/
def execWriteF64BE (c : Ctl) (s : State) : Result := writeF64 .big c s

end Sys2Proof.Machine
end

