-- ==== Sys2Proof/Machine/Hex.lean ====
section
/-! DEFINITION. Machine/Hex.lean: HEXDEC and HEXENC (42_hex R100 to R102) over the digits of 10_state R32. -/

namespace Sys2Proof.Machine

/-- `HEX_DIGITS` (10_state R32). -/
def hexDigits : List CodePoint :=
  (List.range 10).map (fun i => BitVec.ofNat 31 (0x30 + i)) ++ (List.range 6).map (fun i => BitVec.ofNat 31 (0x61 + i))

/-- `HEX_DIGITS[i]`. -/
def hexDigit (i : Nat) : CodePoint := hexDigits.getD i 0

/-- `HEX_VALUE(c)` (10_state R32). -/
def hexValue (c : CodePoint) : Option Nat :=
  if 0x30 ≤ c ∧ c ≤ 0x39 then some (c.toNat - 0x30)
  else if 0x61 ≤ c ∧ c ≤ 0x66 then some (c.toNat - 0x61 + 10)
  else if 0x41 ≤ c ∧ c ≤ 0x46 then some (c.toNat - 0x41 + 10)
  else none

/-- The pairs of HEXDEC, left to right (42_hex R101). -/
def hexPairs : List CodePoint → Except ErrorKind (List Byte)
  | [] => .ok []
  | [_] => .error .malformedInput
  | h :: l :: rest =>
    match hexValue h, hexValue l with
    | some x, some y => (hexPairs rest).map (BitVec.ofNat 8 (16 * x + y) :: ·)
    | _, _ => .error .malformedInput

/-- HEXDEC's answer for a text (42_hex R101): the length check, then the pairs. -/
def hexDecode (t : List CodePoint) : Except ErrorKind (List Byte) :=
  if t.length % 2 ≠ 0 then .error .malformedInput else hexPairs t

/-- HEXENC's answer for a byte list (42_hex R102). -/
def hexEncode (bs : List Byte) : List CodePoint :=
  bs.flatMap fun b => [hexDigit (b.toNat >>> 4), hexDigit (b.toNat &&& 15)]

/-- `HEXDEC` (42_hex R101). -/
def execHexdec (_c : Ctl) (s : State) : Result := textToBytes hexDecode s

/-- `HEXENC` (42_hex R102). -/
def execHexenc (_c : Ctl) (s : State) : Result := bytesToText hexEncode s

end Sys2Proof.Machine
end

