-- ==== Sys2Proof/Machine/Integer.lean ====
section
/-! DEFINITION. Machine/Integer.lean: the 20 integer commands (44_integer R130 to R159). -/

namespace Sys2Proof.Machine

/-- The read commands' common rule (44_integer R140 to R149): `read_check`, the bytes in the command's order, the two's-complement
adjustment of a signed type, RESULT. A 1-byte type has no byte order; it is read as little endian. -/
def readInt (t : IntType) (e : Endian) (c : Ctl) (s : State) : Result :=
  match readCheck t.bytes c s with
  | .error r => r
  | .ok o => .next ((s.setResult (bits64Int (t.ofPattern (e.val (s.memRead o t.bytes))))).done)

/-- The write commands' common rule (44_integer R150 to R159): `write_check_int`, then the pattern's bytes in the command's
order. -/
def writeInt (t : IntType) (e : Endian) (c : Ctl) (s : State) : Result :=
  match writeCheckInt t c s with
  | .error r => r
  | .ok (o, x) => .next ((s.memWrite o (e.bytes t.bytes (t.toPattern x))).done)

/-- `READ.U8` (44_integer R140). -/
def execReadU8 (c : Ctl) (s : State) : Result := readInt .u8 .little c s

/-- `READ.I8` (44_integer R141). -/
def execReadI8 (c : Ctl) (s : State) : Result := readInt .i8 .little c s

/-- `READ.U16LE` (44_integer R142). -/
def execReadU16LE (c : Ctl) (s : State) : Result := readInt .u16 .little c s

/-- `READ.U16BE` (44_integer R143). -/
def execReadU16BE (c : Ctl) (s : State) : Result := readInt .u16 .big c s

/-- `READ.I16LE` (44_integer R144). -/
def execReadI16LE (c : Ctl) (s : State) : Result := readInt .i16 .little c s

/-- `READ.I16BE` (44_integer R145). -/
def execReadI16BE (c : Ctl) (s : State) : Result := readInt .i16 .big c s

/-- `READ.U32LE` (44_integer R146). -/
def execReadU32LE (c : Ctl) (s : State) : Result := readInt .u32 .little c s

/-- `READ.U32BE` (44_integer R147). -/
def execReadU32BE (c : Ctl) (s : State) : Result := readInt .u32 .big c s

/-- `READ.I32LE` (44_integer R148). -/
def execReadI32LE (c : Ctl) (s : State) : Result := readInt .i32 .little c s

/-- `READ.I32BE` (44_integer R149). -/
def execReadI32BE (c : Ctl) (s : State) : Result := readInt .i32 .big c s

/-- `WRITE.U8` (44_integer R150). -/
def execWriteU8 (c : Ctl) (s : State) : Result := writeInt .u8 .little c s

/-- `WRITE.I8` (44_integer R151). -/
def execWriteI8 (c : Ctl) (s : State) : Result := writeInt .i8 .little c s

/-- `WRITE.U16LE` (44_integer R152). -/
def execWriteU16LE (c : Ctl) (s : State) : Result := writeInt .u16 .little c s

/-- `WRITE.U16BE` (44_integer R153). -/
def execWriteU16BE (c : Ctl) (s : State) : Result := writeInt .u16 .big c s

/-- `WRITE.I16LE` (44_integer R154). -/
def execWriteI16LE (c : Ctl) (s : State) : Result := writeInt .i16 .little c s

/-- `WRITE.I16BE` (44_integer R155). -/
def execWriteI16BE (c : Ctl) (s : State) : Result := writeInt .i16 .big c s

/-- `WRITE.U32LE` (44_integer R156). -/
def execWriteU32LE (c : Ctl) (s : State) : Result := writeInt .u32 .little c s

/-- `WRITE.U32BE` (44_integer R157). -/
def execWriteU32BE (c : Ctl) (s : State) : Result := writeInt .u32 .big c s

/-- `WRITE.I32LE` (44_integer R158). -/
def execWriteI32LE (c : Ctl) (s : State) : Result := writeInt .i32 .little c s

/-- `WRITE.I32BE` (44_integer R159). -/
def execWriteI32BE (c : Ctl) (s : State) : Result := writeInt .i32 .big c s

end Sys2Proof.Machine
end

