-- ==== Sys2Proof/Machine/Utf8.lean ====
section
/-! DEFINITION. Machine/Utf8.lean: U8ENC and U8DEC, extended UTF-8 (43_utf8 R110 to R114). -/

namespace Sys2Proof.Machine

/-- `u8len(cp)` (43_utf8 R110). -/
def u8Len (cp : Nat) : Nat :=
  if cp ≤ 127 then 1
  else if cp ≤ 2047 then 2
  else if cp ≤ 65535 then 3
  else if cp ≤ 2097151 then 4
  else if cp ≤ 67108863 then 5
  else 6

/-- The lead byte of an `n`-byte sequence, `n >= 2` (43_utf8 R111). -/
def u8Lead (n cp : Nat) : Byte := BitVec.ofNat 8 (((0xFF <<< (8 - n)) &&& 0xFF) ||| (cp >>> (6 * (n - 1))))

/-- Continuation byte `i` of an `n`-byte sequence, `1 <= i <= n-1` (43_utf8 R111). -/
def u8Cont (n i cp : Nat) : Byte := BitVec.ofNat 8 (0x80 ||| ((cp >>> (6 * (n - 1 - i))) &&& 0x3F))

/-- The bytes of one code point (43_utf8 R111). -/
def u8EncodeOne (p : CodePoint) : List Byte :=
  let cp := p.toNat
  let n := u8Len cp
  if n = 1 then [BitVec.ofNat 8 cp] else u8Lead n cp :: (List.range (n - 1)).map fun j => u8Cont n (j + 1) cp

/-- U8ENC's answer for a text (43_utf8 R111). -/
def u8Encode (t : List CodePoint) : List Byte := t.flatMap u8EncodeOne

/-- `u8seq(b0)` (43_utf8 R112); `none` for 0xFE and 0xFF. -/
def u8Seq (b0 : Nat) : Option Nat :=
  if b0 < 128 then some 1
  else if b0 < 224 then some 2
  else if b0 < 240 then some 3
  else if b0 < 248 then some 4
  else if b0 < 252 then some 5
  else if b0 < 254 then some 6
  else none

/-- The code point of a lead byte and its continuation bytes, whose prefix bits are not checked (43_utf8 R113). -/
def u8CodePoint (n b0 : Nat) (conts : List Byte) : CodePoint :=
  BitVec.ofNat 31 (conts.foldl (fun cp b => cp * 64 + (b.toNat &&& 0x3F)) (if n = 1 then b0 else b0 &&& (0x7F >>> n)))

/-- The loop of U8DEC (43_utf8 R113): the decoded code points, and whether all of the input was decoded (no lead byte 0xFE or
0xFF, no sequence that runs past the end). `fuel` bounds the rounds; the input's length is enough, since each round takes a byte. -/
def u8DecodeLoop : (fuel : Nat) → List Byte → List CodePoint × Bool
  | _, [] => ([], true)
  | 0, _ => ([], false)
  | fuel + 1, b0 :: rest =>
    match u8Seq b0.toNat with
    | none => ([], false)
    | some n =>
      if rest.length < n - 1 then ([], false)
      else
        let tail := u8DecodeLoop fuel (rest.drop (n - 1))
        (u8CodePoint n b0.toNat (rest.take (n - 1)) :: tail.1, tail.2)

/-- U8DEC's decoded prefix and whether it is all of the input (43_utf8 R113, R114). -/
def u8Decode (bs : List Byte) : List CodePoint × Bool := u8DecodeLoop bs.length bs

/-- `U8ENC` (43_utf8 R111). -/
def execU8enc (_c : Ctl) (s : State) : Result := textToBytes (fun t => .ok (u8Encode t)) s

/-- `U8DEC` (43_utf8 R113). When the input is malformed, a drawn tail follows the decoded prefix (R114). -/
def execU8dec (_c : Ctl) (s : State) : Result :=
  match bytesOperand s with
  | .error r => r
  | .ok bs =>
    match u8Decode bs with
    | (out, true) => .next ((s.setTout out).done)
    | (out, false) => .next (((s.setTout (out ++ Config.drawTail s.draws)).drew).done)

end Sys2Proof.Machine
end

