-- ==== Sys2Proof/Machine/Dispatch.lean ====
section
/-! DEFINITION. Machine/Dispatch.lean: one arm per command, each one call of the command's meaning. -/

namespace Sys2Proof.Machine

def exec (i : Instr) (s : State) : Host.Outcome State Fault Refusal :=
  match i with
  | .length c => Sys2Proof.Machine.execLength c s
  | .encsel c => Sys2Proof.Machine.execEncsel c s
  | .b64dec c => Sys2Proof.Machine.execB64dec c s
  | .b64enc c => Sys2Proof.Machine.execB64enc c s
  | .hexdec c => Sys2Proof.Machine.execHexdec c s
  | .hexenc c => Sys2Proof.Machine.execHexenc c s
  | .u8enc c => Sys2Proof.Machine.execU8enc c s
  | .u8dec c => Sys2Proof.Machine.execU8dec c s
  | .readU8 c => Sys2Proof.Machine.execReadU8 c s
  | .readI8 c => Sys2Proof.Machine.execReadI8 c s
  | .readU16LE c => Sys2Proof.Machine.execReadU16LE c s
  | .readU16BE c => Sys2Proof.Machine.execReadU16BE c s
  | .readI16LE c => Sys2Proof.Machine.execReadI16LE c s
  | .readI16BE c => Sys2Proof.Machine.execReadI16BE c s
  | .readU32LE c => Sys2Proof.Machine.execReadU32LE c s
  | .readU32BE c => Sys2Proof.Machine.execReadU32BE c s
  | .readI32LE c => Sys2Proof.Machine.execReadI32LE c s
  | .readI32BE c => Sys2Proof.Machine.execReadI32BE c s
  | .readF32LE c => Sys2Proof.Machine.execReadF32LE c s
  | .readF32BE c => Sys2Proof.Machine.execReadF32BE c s
  | .readF64LE c => Sys2Proof.Machine.execReadF64LE c s
  | .readF64BE c => Sys2Proof.Machine.execReadF64BE c s
  | .writeU8 c => Sys2Proof.Machine.execWriteU8 c s
  | .writeI8 c => Sys2Proof.Machine.execWriteI8 c s
  | .writeU16LE c => Sys2Proof.Machine.execWriteU16LE c s
  | .writeU16BE c => Sys2Proof.Machine.execWriteU16BE c s
  | .writeI16LE c => Sys2Proof.Machine.execWriteI16LE c s
  | .writeI16BE c => Sys2Proof.Machine.execWriteI16BE c s
  | .writeU32LE c => Sys2Proof.Machine.execWriteU32LE c s
  | .writeU32BE c => Sys2Proof.Machine.execWriteU32BE c s
  | .writeI32LE c => Sys2Proof.Machine.execWriteI32LE c s
  | .writeI32BE c => Sys2Proof.Machine.execWriteI32BE c s
  | .writeF32LE c => Sys2Proof.Machine.execWriteF32LE c s
  | .writeF32BE c => Sys2Proof.Machine.execWriteF32BE c s
  | .writeF64LE c => Sys2Proof.Machine.execWriteF64LE c s
  | .writeF64BE c => Sys2Proof.Machine.execWriteF64BE c s

end Sys2Proof.Machine
end

