-- ==== Sys2Proof/Machine/Step.lean ====
section
/-! DEFINITION. Machine/Step.lean: one step of the machine: the block takes the host's next write (70_reset R231, R232). -/

namespace Sys2Proof.Machine

/-- The block takes the word the host has written to CMD: it decodes it and runs the command to its end, or answers an ILLEGAL
word with STATUS 8 (70_reset R232, 60_exceptions R216). -/
def State.issue (w : CommandWord) (s : State) : Host.Outcome State Fault Refusal :=
  match decode w with
  | .ok i => exec i (s.latch w)
  | .error _ => .next (s.latch w).illegalCommand

/-- One step. A block with UNDEF = 1 takes no further step (60_exceptions R214). Otherwise the block takes the host's next write;
when the host writes nothing more, it is idle in its last state (70_reset R235; log 10). -/
def step (s : State) : Host.Outcome State Fault Refusal :=
  if s.undef then .fault .blockFaulted
  else
    match s.script with
    | [] => .next s
    | .off o :: rest => (s.withScript rest).hostOff o
    | .val v :: rest => .next ((s.withScript rest).hostVal v)
    | .tin t :: rest => .next ((s.withScript rest).hostTin t)
    | .bin b :: rest => .next ((s.withScript rest).hostBin b)
    | .cmd w :: rest => (s.withScript rest).issue w

/-- The state in which the host's next write is the command word of the low `nbits` bits of `w` (log 2). -/
def State.withFetchWord (s : State) (nbits w : Nat) : State :=
  { s with script := .cmd (tableWord nbits w) :: s.script }

end Sys2Proof.Machine
end

