-- ==== Sys2Proof/Machine/RealValue.lean ====
section
/-! DEFINITION. Machine/RealValue.lean: the rational number a finite IEEE-754 pattern stands for, written from the tables of
45_float R170 and R171. The step does not use it: the statements do, to say what a number the block reads or writes is. -/

namespace Sys2Proof.Machine

/-- `x[hi:lo]` of 00_scope R6. -/
def bitField (x hi lo : Nat) : Nat := x / 2 ^ lo % 2 ^ (hi - lo + 1)

/-- `(-1)^s`. -/
def signFactor (s : Nat) : ℚ := if s = 1 then -1 else 1

/-- The pattern is a finite binary64 number: E is not 2047 (45_float R171). -/
abbrev finite64 (b : Bits64) : Prop := bitField b.toNat 62 52 ≠ 2047

/-- The value of a finite binary64 pattern (45_float R171). -/
def value64 (b : Bits64) : ℚ :=
  let e := bitField b.toNat 62 52
  let f := bitField b.toNat 51 0
  if e = 0 then signFactor (bitField b.toNat 63 63) * f * 2 ^ (-1074 : ℤ)
  else signFactor (bitField b.toNat 63 63) * (2 ^ 52 + f) * 2 ^ ((e : ℤ) - 1075)

/-- The pattern is a binary64 NaN: E = 2047 and F is not 0 (45_float R171). -/
abbrev nanPattern64 (b : Bits64) : Prop := bitField b.toNat 62 52 = 2047 ∧ bitField b.toNat 51 0 ≠ 0

/-- The pattern is a finite binary32 number: E is not 255 (45_float R170). -/
abbrev finite32 (p : Bits32) : Prop := bitField p.toNat 30 23 ≠ 255

/-- The value of a finite binary32 pattern (45_float R170). -/
def value32 (p : Bits32) : ℚ :=
  let e := bitField p.toNat 30 23
  let f := bitField p.toNat 22 0
  if e = 0 then signFactor (bitField p.toNat 31 31) * f * 2 ^ (-149 : ℤ)
  else signFactor (bitField p.toNat 31 31) * (2 ^ 23 + f) * 2 ^ ((e : ℤ) - 150)

/-- The pattern is a binary32 NaN: E = 255 and F is not 0 (45_float R170). -/
abbrev nanPattern32 (p : Bits32) : Prop := bitField p.toNat 30 23 = 255 ∧ bitField p.toNat 22 0 ≠ 0

/-- `MAXF32` (45_float R170). -/
def maxF32 : ℚ := (2 - 2 ^ (-23 : ℤ)) * 2 ^ 127

/-- `b` is `bits64(x)` for a number `x` that is not -0.0 (00_scope R7): the finite pattern of value `x`, and +0.0 for 0. -/
def isBits64 (x : ℚ) (b : Bits64) : Prop := finite64 b ∧ value64 b = x ∧ (x = 0 → b = 0)

end Sys2Proof.Machine
end

