-- ==== Sys2Proof/Safety.lean ====
section
/-! DEFINITION. Safety.lean: what counts as a good state of the block, the classes of commands and what each class may read, answer
and change, written from the spec's tables (30_encoding R61, 20_memory R42, 44_integer R130, 60_exceptions R200, R214), for the
statements to use. The step uses none of it. -/

namespace Sys2Proof.Machine

/-! ## Good states -/

/-- OFF, where written, holds an unsigned number of ADDR_W bits (10_state R23). -/
def OperandReg.fits (p : Params) : OperandReg Nat → Bool
  | .noValue => true
  | .holds o => offsetFits p o

/-- A good state: the parameters are within R5's bounds, BUF is in its canonical form with no cell at or above LEN (R20, R40), OFF
holds ADDR_W bits (R23), STATUS is none of the reserved codes 9 to 15 (R200), and UNDEF is 0, the premise of every claim (R30). -/
def State.Good (s : State) : Prop :=
  paramsWf s.params s.len = true ∧ s.buf.wf = true ∧ s.buf.below s.len = true ∧ s.off.fits s.params = true ∧
    s.status ≤ 8 ∧ s.undef = false

/-! ## Command classes -/

/-- The classes of R61's table; a numeric command has the width in bytes of R42. -/
inductive CommandClass where
  | lengthClass
  | encselClass
  | textToBytes
  | bytesToText
  | numericRead (n : Nat)
  | numericWrite (n : Nat)
deriving DecidableEq, Repr

/-- The class of each command (30_encoding R61, 20_memory R42). -/
def commandClass : Instr → CommandClass
  | .length _ => .lengthClass
  | .encsel _ => .encselClass
  | .b64dec _ | .hexdec _ | .u8enc _ => .textToBytes
  | .b64enc _ | .hexenc _ | .u8dec _ => .bytesToText
  | .readU8 _ | .readI8 _ => .numericRead 1
  | .readU16LE _ | .readU16BE _ | .readI16LE _ | .readI16BE _ => .numericRead 2
  | .readU32LE _ | .readU32BE _ | .readI32LE _ | .readI32BE _ | .readF32LE _ | .readF32BE _ => .numericRead 4
  | .readF64LE _ | .readF64BE _ => .numericRead 8
  | .writeU8 _ | .writeI8 _ => .numericWrite 1
  | .writeU16LE _ | .writeU16BE _ | .writeI16LE _ | .writeI16BE _ => .numericWrite 2
  | .writeU32LE _ | .writeU32BE _ | .writeI32LE _ | .writeI32BE _ | .writeF32LE _ | .writeF32BE _ => .numericWrite 4
  | .writeF64LE _ | .writeF64BE _ => .numericWrite 8

/-- Whether a command reads an operand register (30_encoding R61). -/
def readsOperand (i : Instr) (r : OperandName) : Bool :=
  match commandClass i, r with
  | .encselClass, .tin => i.ctl.tv
  | .textToBytes, .tin => true
  | .bytesToText, .bin => true
  | .numericRead _, .off => i.ctl.ov
  | .numericWrite _, .off => i.ctl.ov
  | .numericWrite _, .val => i.ctl.vv
  | _, _ => false

/-- The host has not written this operand register since reset (10_state R36). -/
def State.unwritten (s : State) : OperandName → Prop
  | .off => s.off = .noValue
  | .val => s.val = .noValue
  | .tin => s.tin = .noValue
  | .bin => s.bin = .noValue

/-- Every operand register the command reads has been written (70_reset R231 step 2). -/
def OperandsWritten (i : Instr) (s : State) : Prop := ∀ r, readsOperand i r = true → ¬ s.unwritten r

/-- The cases in which a command ends in `undefined` (60_exceptions R214). -/
def EndsUndefined (i : Instr) (s : State) : Prop :=
  (∃ r, readsOperand i r = true ∧ s.unwritten r) ∨
    ∃ n, commandClass i = .numericWrite n ∧ i.ctl.a = false ∧ (i.ctl.ov = false ∨ ∃ o, s.off = .holds o ∧ s.len < o + n)

/-- The STATUS codes a command may end with (60_exceptions R200 and the "STATUS written" line of each command's rule); the
numeric errors arise only with A = 1. -/
def statusCodes (i : Instr) : List (BitVec 4) :=
  match i with
  | .length _ | .b64enc _ | .hexenc _ | .u8enc _ | .u8dec _ => [0]
  | .encsel _ => [0, 2]
  | .b64dec _ => [0, 3, 4]
  | .hexdec _ => [0, 3]
  | .readU8 c | .readI8 c | .readU16LE c | .readU16BE c | .readI16LE c | .readI16BE c | .readU32LE c | .readU32BE c
  | .readI32LE c | .readI32BE c | .readF32LE c | .readF32BE c | .readF64LE c | .readF64BE c => if c.a then [0, 5, 6] else [0]
  | .writeU8 c | .writeI8 c | .writeU16LE c | .writeU16BE c | .writeI16LE c | .writeI16BE c | .writeU32LE c | .writeU32BE c
  | .writeI32LE c | .writeI32BE c => if c.a then [0, 5, 6, 7] else [0]
  | .writeF32LE c | .writeF32BE c | .writeF64LE c | .writeF64BE c => if c.a then [0, 5, 6] else [0]

/-- Width, MIN and MAX of an integer write's type (44_integer R130). -/
def intWriteRange : Instr → Option (Nat × ℤ × ℤ)
  | .writeU8 _ => some (1, 0, 255)
  | .writeI8 _ => some (1, -128, 127)
  | .writeU16LE _ | .writeU16BE _ => some (2, 0, 65535)
  | .writeI16LE _ | .writeI16BE _ => some (2, -32768, 32767)
  | .writeU32LE _ | .writeU32BE _ => some (4, 0, 4294967295)
  | .writeI32LE _ | .writeI32BE _ => some (4, -2147483648, 2147483647)
  | _ => none

/-! ## Bytes and numbers, by plain arithmetic -/

/-- The byte of BUF at `a`, as a number. -/
def State.byteAt (s : State) (a : Nat) : Nat := (s.buf.read a).toNat

/-- The little-endian pattern of the `n` bytes from `a` (20_memory R43): the sum of `BUF[a+i] * 256^i`. -/
def State.lePattern (s : State) (a n : Nat) : Nat := ∑ i ∈ Finset.range n, s.byteAt (a + i) * 256 ^ i

/-- The big-endian pattern of the `n` bytes from `a` (20_memory R43): the sum of `BUF[a+i] * 256^(n-1-i)`. -/
def State.bePattern (s : State) (a n : Nat) : Nat := ∑ i ∈ Finset.range n, s.byteAt (a + i) * 256 ^ (n - 1 - i)

/-- The two's-complement reading of a pattern of `bits` bits (44_integer R132). -/
def signedValue (bits u : Nat) : ℤ := if u < 2 ^ (bits - 1) then u else (u : ℤ) - 2 ^ bits

/-- `m'` reads as `m` does at every address but `o .. o+n-1` (20_memory R42). -/
def SameOutside (m m' : Memory) (o n : Nat) : Prop := ∀ a, a < o ∨ o + n ≤ a → m'.read a = m.read a

/-! ## What a command or a step leaves, whether it completes or ends in `undefined` -/

/-- The state a command or a step leaves: the next state, or the faulted state that `undefined` leaves (60_exceptions R214;
log 5). -/
def endState : Result → Option State
  | .next t => some t
  | .fault (.undefinedOutcome _ t) => some t
  | .fault .blockFaulted => none
  | .refused _ => none

/-- Everything that only the host or the construction of the instance sets is as it was (00_scope R5; 10_state R21 to R26, R33),
and the host's writes still to come are the same. -/
def KeepsHostSide (s t : State) : Prop :=
  t.params = s.params ∧ t.len = s.len ∧ t.cmd = s.cmd ∧ t.off = s.off ∧ t.val = s.val ∧ t.tin = s.tin ∧ t.bin = s.bin ∧
    t.csp = s.csp ∧ t.script = s.script

/-! ## Shapes that several commands' statements share -/

/-- A read command of width `n` at a good offset, in either assertion mode: it ends with RESULT = `bits64(x)` and STATUS 0, and
changes nothing else. -/
def ReadsNumber (i : Instr) (n : Nat) (x : State → Nat → ℤ) : Prop :=
  ∀ s o, i.ctl.ov = true → s.off = .holds o → o + n ≤ s.len →
    ∃ r, exec i s = .next { s with result := r, status := 0 } ∧ isBits64 (x s o) r

/-- An integer write of width `n` at a good offset of an integer `x` in `[min, max]`, in either assertion mode: byte `order j` of
the two's-complement pattern of `x` goes to address `OFF + j`, STATUS is 0 and nothing else changes. (BUF is in canonical form, which
every step keeps: Obligations.EveryStepKeepsGood.) -/
def WritesInteger (i : Instr) (n : Nat) (min max : ℤ) (order : Nat → Nat) : Prop :=
  ∀ (s : State) (o : Nat) (b : Bits64) (x : ℤ), s.buf.wf = true → i.ctl.ov = true → i.ctl.vv = true → s.off = .holds o →
    s.val = .holds b → o + n ≤ s.len → finite64 b → value64 b = x → min ≤ x → x ≤ max →
    ∃ m, exec i s = .next { s with buf := m, status := 0 } ∧ SameOutside s.buf m o n ∧
      ∀ j < n, ((m.read (o + j)).toNat : ℤ) = x % 2 ^ (8 * n) / 256 ^ order j % 256

/-- A write command at a good offset that stores the `n`-byte pattern `p`: the bytes at `OFF + j`, most significant first when
`big`, STATUS 0 and, but for the count of draws, nothing else. -/
def StoresPattern (i : Instr) (s : State) (o n : Nat) (big : Bool) (p draws : Nat) : Prop :=
  ∃ m, exec i s = .next { s with buf := m, status := 0, draws := draws } ∧ SameOutside s.buf m o n ∧
    ∀ j < n, (m.read (o + j)).toNat = p / 256 ^ (if big then n - 1 - j else j) % 256

/-- A write of an integer `x` in `[min, max]`, then a read at the same offset, both with A = 1: STATUS is 0 both times and the read
ends with RESULT = `bits64(f x)`. -/
def WriteThenRead (w r : Ctl → Instr) (n : Nat) (min max : ℤ) (f : ℤ → ℤ) : Prop :=
  ∀ (c d : Ctl) (s : State) (o : Nat) (b : Bits64) (x : ℤ), s.buf.wf = true →
    c.a = true → c.ov = true → c.vv = true → d.a = true → d.ov = true → s.off = .holds o → s.val = .holds b → o + n ≤ s.len → isBits64 x b → min ≤ x → x ≤ max →
    ∃ t u, exec (w c) s = .next t ∧ t.status = 0 ∧ exec (r d) t = .next u ∧ u.status = 0 ∧ isBits64 (f x) u.result

/-! ## Accesses of mixed width and byte order (20_memory R44) -/

/-- `E` = 1: the command's access is big endian (30_encoding R64). -/
def bigEndian : Instr → Bool
  | .readU16BE _ | .readI16BE _ | .readU32BE _ | .readI32BE _ | .readF32BE _ | .readF64BE _ => true
  | .writeU16BE _ | .writeI16BE _ | .writeU32BE _ | .writeI32BE _ | .writeF32BE _ | .writeF64BE _ => true
  | _ => false

/-- The power of 256 that byte `j` of an `n`-byte access stands for (20_memory R43). -/
def bytePlace (big : Bool) (n j : Nat) : Nat := if big then n - 1 - j else j

/-- The pattern that a read of `n` bytes sees (20_memory R43): `le_val` or `be_val` of the bytes `byte 0 .. byte (n-1)`. -/
def patternOf (big : Bool) (n : Nat) (byte : Nat → Nat) : Nat := ∑ j ∈ Finset.range n, byte j * 256 ^ bytePlace big n j

/-- `r` is what the read command `i` makes of the pattern `u` (44_integer R132, R140 to R149; 45_float R172, R175, R180 to R183). -/
def ReadsPatternAs (i : Instr) (u : Nat) (r : Bits64) : Prop :=
  match i with
  | .readU8 _ | .readU16LE _ | .readU16BE _ | .readU32LE _ | .readU32BE _ => isBits64 u r
  | .readI8 _ => isBits64 (signedValue 8 u) r
  | .readI16LE _ | .readI16BE _ => isBits64 (signedValue 16 u) r
  | .readI32LE _ | .readI32BE _ => isBits64 (signedValue 32 u) r
  | .readF32LE _ | .readF32BE _ =>
    let p : Bits32 := BitVec.ofNat 32 u
    if nanPattern32 p then nanPattern64 r
    else if p = 0x7F800000 then r = 0x7FF0000000000000
    else if p = 0xFF800000 then r = 0xFFF0000000000000
    else finite64 r ∧ value64 r = value32 p ∧ bitField r.toNat 63 63 = bitField p.toNat 31 31
  | .readF64LE _ | .readF64BE _ =>
    let p : Bits64 := BitVec.ofNat 64 u
    if nanPattern64 p then nanPattern64 r else r = p
  | _ => False

/-- The bytes `byte 0 .. byte (n-1)` are what the write command `i` of width `n` stores where the spec fixes them: for an integer in
range its two's-complement pattern, for a binary64 write VAL itself (but for a NaN and -0.0), for a binary32 write of a number other
than 0 that binary32 holds exactly the pattern of that number, each in the command's byte order (20_memory R43, 44_integer R132,
45_float R173, R175). Bytes that the spec draws are not constrained. -/
def BytesStoredBy (i : Instr) (s : State) (n : Nat) (byte : Nat → Nat) : Prop :=
  i.ctl.vv = true → ∀ b : Bits64, s.val = .holds b →
    match intWriteRange i with
    | some (_, lo, hi) => ∀ x : ℤ, finite64 b → value64 b = x → lo ≤ x → x ≤ hi →
      ∀ j < n, (byte j : ℤ) = x % 2 ^ (8 * n) / 256 ^ bytePlace (bigEndian i) n j % 256
    | none =>
      if n = 8 then ¬ nanPattern64 b → b ≠ 0x8000000000000000 → ∀ j < n, byte j = b.toNat / 256 ^ bytePlace (bigEndian i) n j % 256
      else ∀ p : Bits32, finite64 b → finite32 p → value32 p = value64 b → value64 b ≠ 0 →
        ∀ j < n, byte j = p.toNat / 256 ^ bytePlace (bigEndian i) n j % 256

/-! ## Text, by plain arithmetic -/

/-- The index of a character in the order A..Z a..z 0..9 + / (10_state R31). -/
def sixBitValue (c : CodePoint) : Option Nat :=
  let n := c.toNat
  if 65 ≤ n ∧ n ≤ 90 then some (n - 65)
  else if 97 ≤ n ∧ n ≤ 122 then some (n - 97 + 26)
  else if 48 ≤ n ∧ n ≤ 57 then some (n - 48 + 52)
  else if n = 43 then some 62
  else if n = 47 then some 63
  else none

/-- '=' stands where it may not (41_base64 R91): before the last two characters, or last but one with another character after it. -/
def PaddingMisplaced (t : List CodePoint) : Prop :=
  ∃ i, t[i]? = some 0x3D ∧ (i + 2 < t.length ∨ (i + 2 = t.length ∧ t[i + 1]? ≠ some 0x3D))

/-- The six bits of the character at position `k`, 0 for '=' and past the end. -/
def sixBitsAt (t : List CodePoint) (k : Nat) : Nat := ((t[k]?).bind sixBitValue).getD 0

/-- Byte `i` of a base64 decoding: the eight bits that start `2 * (i % 3)` bits into the symbols at `4*(i/3) + i%3` and after it
(41_base64 R90). -/
def b64ByteAt (t : List CodePoint) (i : Nat) : Nat :=
  (sixBitsAt t (4 * (i / 3) + i % 3) * 64 + sixBitsAt t (4 * (i / 3) + i % 3 + 1)) / 2 ^ (4 - 2 * (i % 3)) % 256

/-- The byte at position `k` of a byte list, 0 past the end (41_base64 R92). -/
def byteOr0 (bs : List Byte) (k : Nat) : Nat := ((bs[k]?).getD 0).toNat

/-- Symbol value `i` of a base64 encoding (41_base64 R90, R92): the six bits of group `i / 4` at place `i % 4`. -/
def b64SymbolAt (bs : List Byte) (i : Nat) : Nat :=
  match i % 4 with
  | 0 => byteOr0 bs (3 * (i / 4)) / 4
  | 1 => byteOr0 bs (3 * (i / 4)) % 4 * 16 + byteOr0 bs (3 * (i / 4) + 1) / 16
  | 2 => byteOr0 bs (3 * (i / 4) + 1) % 16 * 4 + byteOr0 bs (3 * (i / 4) + 2) / 64
  | _ => byteOr0 bs (3 * (i / 4) + 2) % 64

/-- The value of a hex digit, either case (42_hex R100). -/
def hexDigitValue (c : CodePoint) : Option Nat :=
  let n := c.toNat
  if 48 ≤ n ∧ n ≤ 57 then some (n - 48)
  else if 97 ≤ n ∧ n ≤ 102 then some (n - 87)
  else if 65 ≤ n ∧ n ≤ 70 then some (n - 55)
  else none

/-- The lower-case hex digit of a value below 16 (10_state R32). -/
def lowerHexDigit (v : Nat) : Nat := if v < 10 then 48 + v else 87 + v

/-- The bytes of one code point, from the table of 43_utf8 R110. -/
def utf8Bytes (cp : Nat) : List Nat :=
  if cp ≤ 127 then [cp]
  else if cp ≤ 2047 then [192 + cp / 64, 128 + cp % 64]
  else if cp ≤ 65535 then [224 + cp / 4096, 128 + cp / 64 % 64, 128 + cp % 64]
  else if cp ≤ 2097151 then [240 + cp / 262144, 128 + cp / 4096 % 64, 128 + cp / 64 % 64, 128 + cp % 64]
  else if cp ≤ 67108863 then
    [248 + cp / 16777216, 128 + cp / 262144 % 64, 128 + cp / 4096 % 64, 128 + cp / 64 % 64, 128 + cp % 64]
  else
    [252 + cp / 1073741824, 128 + cp / 16777216 % 64, 128 + cp / 262144 % 64, 128 + cp / 4096 % 64, 128 + cp / 64 % 64,
      128 + cp % 64]

/-- A lead byte and its continuation bytes, and the code point they give (43_utf8 R112, R113). -/
def IsSequence (bs : List Byte) (cp : Nat) : Prop :=
  match bs.map BitVec.toNat with
  | [a] => a < 128 ∧ cp = a
  | [a, b] => 128 ≤ a ∧ a < 224 ∧ cp = a % 32 * 64 + b % 64
  | [a, b, c] => 224 ≤ a ∧ a < 240 ∧ cp = (a % 16 * 64 + b % 64) * 64 + c % 64
  | [a, b, c, d] => 240 ≤ a ∧ a < 248 ∧ cp = ((a % 8 * 64 + b % 64) * 64 + c % 64) * 64 + d % 64
  | [a, b, c, d, e] => 248 ≤ a ∧ a < 252 ∧ cp = (((a % 4 * 64 + b % 64) * 64 + c % 64) * 64 + d % 64) * 64 + e % 64
  | [a, b, c, d, e, f] =>
    252 ≤ a ∧ a < 254 ∧ cp = ((((a % 2 * 64 + b % 64) * 64 + c % 64) * 64 + d % 64) * 64 + e % 64) * 64 + f % 64
  | _ => False

/-- How many bytes a lead byte asks for, itself counted (43_utf8 R112). -/
def sequenceLength (lead : Nat) : Nat :=
  if lead < 128 then 1 else if lead < 224 then 2 else if lead < 240 then 3 else if lead < 248 then 4 else if lead < 252 then 5 else 6

/-- The rest of the input cannot be decoded (43_utf8 R114): its lead byte is 0xFE or 0xFF, or its sequence runs past the end. -/
def UndecodableRest (rest : List Byte) : Prop :=
  ∃ lead more, rest = lead :: more ∧ (254 ≤ lead.toNat ∨ more.length + 1 < sequenceLength lead.toNat)

/-- The same text up to ASCII case, for a name of small letters and digits (40_block R82). -/
def SameUpToCase (t name : List CodePoint) : Prop :=
  List.Forall₂ (fun x y => x = y ∨ (65 ≤ x.toNat ∧ x.toNat ≤ 90 ∧ x.toNat + 32 = y.toNat)) t name

end Sys2Proof.Machine
end

