-- ==== Sys2Proof/Certificates/Slice0/Obligations.lean ====
section
/-! DEFINITION. Obligations.lean: the statements for the provers, from the numbered rules of spec/. -/

open Sys2Proof Sys2Proof.Machine

/-! ## Command words -/

/-- Each legal word has exactly one meaning and each command exactly one word: decoding and encoding are inverse both ways, with
every flag bit at every value (30_encoding R60, R63, R64, R65). -/
def Obligations.DecodeAndEncodeAreInverse : Prop :=
  ∀ (w : CommandWord) (i : Instr), decode w = .ok i ↔ encode i = w

/-- The decoder accepts a word exactly when R66's list does not name it illegal; of the 256 opcodes 36 are legal and 220 illegal. -/
def Obligations.DecoderAcceptsExactlyTheLegalWords : Prop :=
  (∀ w : CommandWord, (∃ i, decode w = .ok i) ↔
    (w.toNat < 2 ^ 12 ∧
      (w.toNat % 256 ∈ [0x01, 0x02, 0x10, 0x11, 0x12, 0x13, 0x14, 0x15] ∨
        (0x80 ≤ w.toNat % 256 ∧ w.toNat % 4 = 0 ∧ w.toNat % 256 ∉ [0x84, 0x8C, 0xC4, 0xCC])))) ∧
    ((List.range 256).filter fun o => (decode? (BitVec.ofNat 32 o)).isSome).length = 36 ∧
    ((List.range 256).filter fun o => (decode? (BitVec.ofNat 32 o)).isNone).length = 220

/-- A few words of 30_encoding R68 and of the commands' own "Encoding" lines decode to the command they stand for. -/
def Obligations.WordsOfTheSpecDecode : Prop :=
  decode 0x000007D4 = .ok (.writeU16BE ⟨true, true, true, false⟩) ∧
    decode 0x00000380 = .ok (.readU8 ⟨true, true, false, false⟩) ∧
    decode 0x00000802 = .ok (.encsel ⟨false, false, false, true⟩) ∧
    decode 0x00000F01 = .ok (.length ⟨true, true, true, true⟩) ∧
    decode 0x00000010 = .ok (.b64dec ⟨false, false, false, false⟩) ∧
    decode 0x00000013 = .ok (.hexenc ⟨false, false, false, false⟩) ∧
    decode 0x00000015 = .ok (.u8dec ⟨false, false, false, false⟩) ∧
    decode 0x000002B4 = .ok (.readF32BE ⟨false, true, false, false⟩) ∧
    decode 0x000006F8 = .ok (.writeF64LE ⟨false, true, true, false⟩) ∧
    decode 0x00000084 = .error .oneByteBigEndian ∧ decode 0x00001380 = .error .reservedBits

/-! ## Steps -/

/-- When the host's next write is a command word that decodes, the step runs that command, with CMD holding the word and the
host's position one further (70_reset R232, 10_state R33). -/
def Obligations.StepRunsTheDecodedCommand : Prop :=
  ∀ (s : State) (w : CommandWord) (rest : List HostWrite) (i : Instr),
    s.undef = false → s.script = .cmd w :: rest → decode w = .ok i →
    step s = exec i { s with script := rest, cmd := .holds w, csp := s.csp + 1 }

/-- An illegal word ends with STATUS 8 and changes nothing else of the block (60_exceptions R216), whatever the operand registers
hold; the rest of the host's writes stays to be taken. -/
def Obligations.IllegalWordWritesOnlyStatus : Prop :=
  ∀ (s : State) (w : CommandWord) (rest : List HostWrite),
    s.undef = false → s.script = .cmd w :: rest → legalWord w = false →
    step s = .next { s with script := rest, cmd := .holds w, csp := s.csp + 1, status := 8 }

/-- The host's writes of the operand registers (70_reset R231, R234), and the idle block (R235). An offset of more than ADDR_W
bits is refused: that clause is the model's choice, log 9. -/
def Obligations.HostWritesReachTheirRegisters : Prop :=
  ∀ (s : State), s.undef = false →
    (s.script = [] → step s = .next s) ∧
    (∀ v rest, s.script = .val v :: rest → step s = .next { s with script := rest, val := .holds v }) ∧
    (∀ t rest, s.script = .tin t :: rest → step s = .next { s with script := rest, tin := .holds t }) ∧
    (∀ b rest, s.script = .bin b :: rest → step s = .next { s with script := rest, bin := .holds b }) ∧
    (∀ o rest, s.script = .off o :: rest →
      step s = if o < 2 ^ s.params.addrW then .next { s with script := rest, off := .holds o }
        else .refused (.offsetNotPresentable o))

/-- CSP advances by exactly 1 for each command, whatever its STATUS and also when it ends in `undefined` (10_state R33, 40_block R83,
program PR4 of 95_test_vectors), and never otherwise; each step takes one host write. (CSP in State and the moment it advances are
log 11, the script log 1, the state that `undefined` leaves log 5.) -/
def Obligations.PositionCountsCommands : Prop :=
  ∀ s t, endState (step s) = some t →
    t.script = s.script.tail ∧
      t.csp = s.csp + (match s.script with | .cmd _ :: _ => 1 | _ => 0)

/-- A block with UNDEF = 1 takes no step at all (60_exceptions R214). -/
def Obligations.FaultedBlockTakesNoStep : Prop :=
  ∀ s t, s.undef = true → step s = .fault .blockFaulted ∧ step s ≠ .next t

/-! ## Reset -/

/-- After construction from a byte count every byte is 0; after construction from an image BUF holds the image; everything else is
as R36's table says, and the operand registers and CMD hold no value (10_state R36, 70_reset R230). -/
def Obligations.ResetLeavesTheSpecsValues : Prop :=
  ∀ p : Params,
    (∀ n, State.resetFromCount p n = State.resetFromImage p (List.replicate n 0)) ∧
    (∀ img, let s := State.resetFromImage p img
      s.len = img.length ∧ (∀ a, a < s.len → s.buf.read a = (img[a]?).getD 0) ∧ s.result = 0 ∧ s.status = 0 ∧ s.tout = [] ∧
        s.bout = [] ∧ s.undef = false ∧ s.cmd = .noValue ∧ s.off = .noValue ∧ s.val = .noValue ∧ s.tin = .noValue ∧
        s.bin = .noValue ∧ s.csp = 0)

/-- The reset state, whatever the open parameters are, is a good state. -/
def Obligations.ResetIsGood : Prop := State.reset.Good

/-! ## Invariants -/

/-- Every step keeps the state good: LEN and the parameters within R5's bounds, BUF canonical with every listed address below LEN,
OFF within ADDR_W bits, STATUS never a reserved code, UNDEF 0. -/
def Obligations.EveryStepKeepsGood : Prop :=
  ∀ s t : State, s.Good → step s = .next t → t.Good

/-- Only the host writes CMD, OFF, VAL, TIN and BIN; no command writes LEN or the parameters (00_scope R5; 10_state R21 to R26),
neither one that completes nor one that ends in `undefined`; and `undefined` alone sets UNDEF: a command that completes leaves it, one
that ends in `undefined` leaves it 1 (10_state R30, 60_exceptions R214). That `undefined` is a fault that carries a state is log 5. -/
def Obligations.CommandsKeepTheHostsRegisters : Prop :=
  ∀ i s,
    (∀ t, endState (exec i s) = some t → KeepsHostSide s t) ∧
    (∀ t, exec i s = .next t → t.undef = s.undef) ∧
    ∀ why t, exec i s = .fault (.undefinedOutcome why t) → t.undef = true

/-- Each output has its own writers: RESULT only the reads, LENGTH and ENCSEL (10_state R27); TOUT only the bytes-to-text and BOUT
only the text-to-bytes commands (R29); BUF only the numeric writes, and of it only the bytes at OFF .. OFF+n-1 (R20, 20_memory R42). -/
def Obligations.EachOutputHasItsOwnWriters : Prop :=
  ∀ i s t, exec i s = .next t →
    (match commandClass i with
      | .lengthClass | .encselClass | .numericRead _ => t.buf = s.buf ∧ t.tout = s.tout ∧ t.bout = s.bout
      | .textToBytes => t.buf = s.buf ∧ t.result = s.result ∧ t.tout = s.tout
      | .bytesToText => t.buf = s.buf ∧ t.result = s.result ∧ t.bout = s.bout
      | .numericWrite n =>
        t.result = s.result ∧ t.tout = s.tout ∧ t.bout = s.bout ∧ (i.ctl.ov = false → t.buf = s.buf) ∧
          ∀ o, s.off = .holds o → SameOutside s.buf t.buf o n)

/-- Every command that completes ends with one of its own STATUS codes (60_exceptions R200, R202), never with a reserved one and
never with InvalidSource (R215). -/
def Obligations.StatusIsOneOfTheCommandsCodes : Prop :=
  ∀ i s t, exec i s = .next t → t.status ∈ statusCodes i

/-- A command that raises changes nothing but STATUS and its own output stream, which becomes empty (60_exceptions R201, R204; so no
byte of BUF, 20_memory R47, and not RESULT, 10_state R27). -/
def Obligations.ErrorsChangeOnlyStatusAndOwnStream : Prop :=
  ∀ i s t, exec i s = .next t → t.status ≠ 0 →
    t = { s with
      status := t.status
      bout := if commandClass i = .textToBytes then [] else s.bout
      tout := if commandClass i = .bytesToText then [] else s.tout }

/-- No command is refused, and a command ends in `undefined` exactly in R214's cases: an operand register it reads was never written
(which registers a command reads is R61's table; log 4), or a write with A = 0 has no offset or one out of bounds. The faulted
state has UNDEF = 1. -/
def Obligations.UndefinedExactlyInItsCases : Prop :=
  ∀ i s, (∀ r, exec i s ≠ .refused r) ∧ ((∃ f, exec i s = .fault f) ↔ EndsUndefined i s) ∧
    ∀ f, exec i s = .fault f → ∃ why t, f = .undefinedOutcome why t ∧ t.undef = true

/-- No command reads RESULT, STATUS, TOUT or BOUT (70_reset R233): with other values there, a command that completes still completes,
with the same STATUS, BUF and draws, and each of RESULT, TOUT and BOUT is either written with the same value or left as it was. It
compares two runs, and values that both draw are equal only because equal counters draw equal values: that is the model's choice,
log 6, and the statement holds of a chip for equal draws. -/
def Obligations.CommandsIgnoreTheOutputRegisters : Prop :=
  ∀ (i : Instr) (s t : State) (r : Bits64) (c : BitVec 4) (x : List CodePoint) (y : List Byte), exec i s = .next t →
    ∃ t', exec i { s with result := r, status := c, tout := x, bout := y } = .next t' ∧
      t'.status = t.status ∧ t'.buf = t.buf ∧ t'.draws = t.draws ∧
      (t'.result = t.result ∨ (t.result = s.result ∧ t'.result = r)) ∧
      (t'.tout = t.tout ∨ (t.tout = s.tout ∧ t'.tout = x)) ∧ (t'.bout = t.bout ∨ (t.bout = s.bout ∧ t'.bout = y))

/-- A command ignores every flag bit that R61's table does not give its class, whatever its value. It compares two runs, and values
that both draw are equal only because equal counters draw equal values: that is the model's choice, log 6, and the statement holds of
a chip for equal draws. -/
def Obligations.UnusedFlagBitsAreIgnored : Prop :=
  ∀ (s : State) (c d : Ctl),
    (exec (.length c) s = exec (.length d) s ∧ exec (.b64dec c) s = exec (.b64dec d) s ∧
      exec (.b64enc c) s = exec (.b64enc d) s ∧ exec (.hexdec c) s = exec (.hexdec d) s ∧
      exec (.hexenc c) s = exec (.hexenc d) s ∧ exec (.u8enc c) s = exec (.u8enc d) s ∧
      exec (.u8dec c) s = exec (.u8dec d) s) ∧
    (c.tv = d.tv → exec (.encsel c) s = exec (.encsel d) s) ∧
    (c.a = d.a → c.ov = d.ov → ∀ r ∈ [Instr.readU8, .readI8, .readU16LE, .readU16BE, .readI16LE, .readI16BE, .readU32LE,
      .readU32BE, .readI32LE, .readI32BE, .readF32LE, .readF32BE, .readF64LE, .readF64BE], exec (r c) s = exec (r d) s) ∧
    (c.a = d.a → c.ov = d.ov → c.vv = d.vv → ∀ w ∈ [Instr.writeU8, .writeI8, .writeU16LE, .writeU16BE, .writeI16LE,
      .writeI16BE, .writeU32LE, .writeU32BE, .writeI32LE, .writeI32BE, .writeF32LE, .writeF32BE, .writeF64LE, .writeF64BE],
      exec (w c) s = exec (w d) s)

/-! ## Memory and numbers -/

/-- MemWrite then MemRead (00_scope R9, 20_memory R50): the bytes written are read back, and every other address reads as
before. -/
def Obligations.MemoryReadsTheLatestWrite : Prop :=
  ∀ (m : Memory) (a : Nat) (bs : List Byte), m.wf = true →
    (m.writeBytes a bs).readBytes a bs.length = bs ∧ SameOutside m (m.writeBytes a bs) a bs.length

/-- Byte order (20_memory R43): little endian puts `x[8i+7:8i]` at `o+i`, big endian `x[8(n-1-i)+7:8(n-1-i)]`, and a read of the
bytes sees the sum that R43 gives. -/
def Obligations.ByteOrderIsAsStated : Prop :=
  (∀ n x i, i < n → ((Endian.bytes .little n x)[i]?).map BitVec.toNat = some (bitField x (8 * i + 7) (8 * i)) ∧
    ((Endian.bytes .big n x)[i]?).map BitVec.toNat = some (bitField x (8 * (n - 1 - i) + 7) (8 * (n - 1 - i)))) ∧
  (∀ (s : State) o n, Endian.val .little (s.memRead o n) = s.lePattern o n ∧ Endian.val .big (s.memRead o n) = s.bePattern o n)

/-- Two's complement (44_integer R132): the read adjustment, the stored pattern, and that they are inverse both ways. -/
def Obligations.TwosComplementConversions : Prop :=
  ∀ t : IntType,
    (∀ u : Nat, u < 2 ^ t.bits →
      t.ofPattern u = (if t.signed = true then signedValue t.bits u else u) ∧ t.min ≤ t.ofPattern u ∧ t.ofPattern u ≤ t.max ∧
        t.toPattern (t.ofPattern u) = u) ∧
    (∀ x : ℤ, t.min ≤ x → x ≤ t.max →
      (t.toPattern x : ℤ) = (if x < 0 then 2 ^ t.bits + x else x) ∧ t.toPattern x < 2 ^ t.bits ∧ t.ofPattern (t.toPattern x) = x)

/-- The binary64 layout (45_float R171): what the model takes a pattern's number to be is R171's table, in units of 2^-1074. -/
def Obligations.Binary64LayoutIsAsStated : Prop :=
  ∀ b : Bits64,
    (f64 b = .nan ↔ nanPattern64 b) ∧
    (∀ neg, f64 b = .inf neg ↔ bitField b.toNat 62 52 = 2047 ∧ bitField b.toNat 51 0 = 0 ∧
      bitField b.toNat 63 63 = neg.toNat) ∧
    (∀ neg units, f64 b = .fin neg units →
      finite64 b ∧ value64 b = signFactor neg.toNat * units * 2 ^ (-1074 : ℤ) ∧ bitField b.toNat 63 63 = neg.toNat)

/-- `bits64(x)` is exact for every integer of magnitude at most 2^53 (00_scope R7). -/
def Obligations.IntegersAreExactInBinary64 : Prop :=
  ∀ x : ℤ, |x| ≤ 2 ^ 53 → isBits64 x (bits64Int x)

/-- Round-to-nearest (45_float R174) for `k = num / den`: with `f` the floor and `d` the rest, up above a half, down below it, and at
a tie up or to the even one as F32_TIES says; and R174's example of a tie, `1 + 2^-24`, under both tie rules. -/
def Obligations.RoundNearestIsAsStated : Prop :=
  (∀ (p : Params) (nan : Bits32), f32Pack p (f64 0x3FF0000010000000) nan =
    if p.f32Ties = .away then 0x3F800001 else 0x3F800000) ∧
  ∀ (ties : Ties) (num den : Nat), 0 < den →
    let k : ℚ := (num : ℚ) / den
    let f : ℤ := ⌊k⌋
    let d : ℚ := k - f
    (roundNearest ties num den : ℤ) =
      if d > 1 / 2 then f + 1
      else if d < 1 / 2 then f
      else if ties = .away then f + 1
      else if f % 2 = 0 then f else f + 1

/-- The drawn NaNs are NaNs, and every NaN pattern is the one some draw stands for (45_float R172, R173, R175; log 6). -/
def Obligations.DrawnNaNsAreExactlyTheNaNs : Prop :=
  (∀ d, nanPattern64 (nan64Of d)) ∧ (∀ b, nanPattern64 b → nan64Of b = b) ∧
    (∀ d, nanPattern32 (nan32Of d)) ∧ (∀ p, nanPattern32 p → nan32Of p = p)

/-! ## Block control -/

/-- LENGTH leaves RESULT = bits64(LEN) and STATUS 0 and changes nothing else (40_block R80). -/
def Obligations.LengthReadsTheByteCount : Prop :=
  ∀ (c : Ctl) (s : State), s.len ≤ 2 ^ 53 - 1 →
    ∃ r, exec (.length c) s = .next { s with result := r, status := 0 } ∧ isBits64 s.len r

/-- ENCSEL (40_block R81, R82): an omitted name gives 2; a name that is base64, hex or utf8 up to ASCII case gives 0, 1 or 2; any
other name, the empty one included, gives STATUS 2 and leaves RESULT. -/
def Obligations.EncselResolvesTheThreeNames : Prop :=
  ∀ (c : Ctl) (s : State),
    (c.tv = false → ∃ r, exec (.encsel c) s = .next { s with result := r, status := 0 } ∧ isBits64 2 r) ∧
    (∀ t, c.tv = true → s.tin = .holds t →
      (SameUpToCase t [0x62, 0x61, 0x73, 0x65, 0x36, 0x34] →
        ∃ r, exec (.encsel c) s = .next { s with result := r, status := 0 } ∧ isBits64 0 r) ∧
      (SameUpToCase t [0x68, 0x65, 0x78] →
        ∃ r, exec (.encsel c) s = .next { s with result := r, status := 0 } ∧ isBits64 1 r) ∧
      (SameUpToCase t [0x75, 0x74, 0x66, 0x38] →
        ∃ r, exec (.encsel c) s = .next { s with result := r, status := 0 } ∧ isBits64 2 r) ∧
      (¬ SameUpToCase t [0x62, 0x61, 0x73, 0x65, 0x36, 0x34] → ¬ SameUpToCase t [0x68, 0x65, 0x78] →
        ¬ SameUpToCase t [0x75, 0x74, 0x66, 0x38] → exec (.encsel c) s = .next { s with status := 2 }))

/-! ## Base64 -/

/-- B64DEC (41_base64 R91): the length check, then the padding check, then the alphabet check; otherwise BOUT takes three bytes for
each group less one for each '=', each byte the eight bits R90 gives it. Nothing else changes. -/
def Obligations.B64decDecodesOrRaises : Prop :=
  ∀ (c : Ctl) (s : State) (t : List CodePoint), s.tin = .holds t →
    (t.length % 4 ≠ 0 → exec (.b64dec c) s = .next { s with bout := [], status := 3 }) ∧
    (t.length % 4 = 0 → PaddingMisplaced t → exec (.b64dec c) s = .next { s with bout := [], status := 3 }) ∧
    (t.length % 4 = 0 → ¬ PaddingMisplaced t → (∃ p ∈ t, p ≠ 0x3D ∧ sixBitValue p = none) →
      exec (.b64dec c) s = .next { s with bout := [], status := 4 }) ∧
    (t.length % 4 = 0 → ¬ PaddingMisplaced t → (∀ p ∈ t, p = 0x3D ∨ sixBitValue p ≠ none) →
      ∃ out, exec (.b64dec c) s = .next { s with bout := out, status := 0 } ∧
        out.length + t.count 0x3D = 3 * (t.length / 4) ∧
        ∀ i, i < out.length → (out[i]?).map BitVec.toNat = some (b64ByteAt t i))

/-- B64ENC (41_base64 R92): TOUT takes four characters for each three bytes begun; character `i` is '=' where the bytes have run out
and the alphabet's character for its six bits otherwise. Nothing else changes. -/
def Obligations.B64encEncodesEveryByteList : Prop :=
  ∀ (c : Ctl) (s : State) (bs : List Byte), s.bin = .holds bs →
    ∃ out, exec (.b64enc c) s = .next { s with tout := out, status := 0 } ∧ out.length = 4 * ((bs.length + 2) / 3) ∧
      ∀ i, i < out.length → ∃ p, out[i]? = some p ∧
        if 1 ≤ i % 4 ∧ bs.length ≤ 3 * (i / 4) + i % 4 - 1 then p = 0x3D
        else sixBitValue p = some (b64SymbolAt bs i)

/-- Base64 round trip (41_base64 R93): encoding then decoding gives the bytes back with STATUS 0; the converse does not hold, since
"QR==" decodes to [0x41], which encodes to "QQ==". -/
def Obligations.Base64RoundTrip : Prop :=
  (∀ (c d : Ctl) (s : State) (bs : List Byte), s.bin = .holds bs →
    ∃ t, exec (.b64enc c) s = .next t ∧ t.status = 0 ∧
      exec (.b64dec d) { t with tin := .holds t.tout } = .next { t with tin := .holds t.tout, bout := bs, status := 0 }) ∧
  (∀ (c d : Ctl) (s : State), s.tin = .holds [0x51, 0x52, 0x3D, 0x3D] →
    ∃ t, exec (.b64dec c) s = .next t ∧ t.status = 0 ∧ t.bout = [0x41] ∧
      exec (.b64enc d) { t with bin := .holds t.bout } =
        .next { t with bin := .holds t.bout, tout := [0x51, 0x51, 0x3D, 0x3D], status := 0 })

/-! ## Hex -/

/-- HEXDEC (42_hex R101): a text of odd length or with a character that is no hex digit gives STATUS 3 and an empty BOUT; otherwise
BOUT takes 16h + l for each pair. Nothing else changes. -/
def Obligations.HexdecDecodesOrRaises : Prop :=
  ∀ (c : Ctl) (s : State) (t : List CodePoint), s.tin = .holds t →
    (t.length % 2 ≠ 0 ∨ (∃ p ∈ t, hexDigitValue p = none) → exec (.hexdec c) s = .next { s with bout := [], status := 3 }) ∧
    (t.length % 2 = 0 → (∀ p ∈ t, hexDigitValue p ≠ none) →
      ∃ out, exec (.hexdec c) s = .next { s with bout := out, status := 0 } ∧ 2 * out.length = t.length ∧
        ∀ i, i < out.length → ∃ h l, (t[2 * i]?).bind hexDigitValue = some h ∧ (t[2 * i + 1]?).bind hexDigitValue = some l ∧
          (out[i]?).map BitVec.toNat = some (16 * h + l))

/-- HEXENC (42_hex R102): TOUT takes two lower-case hex digits for each byte, high digit first. Nothing else changes. -/
def Obligations.HexencEncodesEveryByteList : Prop :=
  ∀ (c : Ctl) (s : State) (bs : List Byte), s.bin = .holds bs →
    ∃ out, exec (.hexenc c) s = .next { s with tout := out, status := 0 } ∧ out.length = 2 * bs.length ∧
      ∀ i, i < bs.length →
        (out[2 * i]?).map BitVec.toNat = some (lowerHexDigit (byteOr0 bs i / 16)) ∧
          (out[2 * i + 1]?).map BitVec.toNat = some (lowerHexDigit (byteOr0 bs i % 16))

/-- Hex round trip (42_hex R103): HEXENC then HEXDEC gives the bytes back with STATUS 0; a text of hex digits with an upper-case one
decodes but does not encode to itself; "FF" gives [0xFF], which encodes to "ff". -/
def Obligations.HexRoundTrip : Prop :=
  (∀ (c d : Ctl) (s : State) (bs : List Byte), s.bin = .holds bs →
    ∃ t, exec (.hexenc c) s = .next t ∧ t.status = 0 ∧
      exec (.hexdec d) { t with tin := .holds t.tout } = .next { t with tin := .holds t.tout, bout := bs, status := 0 }) ∧
  (∀ (c d : Ctl) (s : State) (text : List CodePoint), s.tin = .holds text → text.length % 2 = 0 →
    (∀ p ∈ text, hexDigitValue p ≠ none) → (∃ p ∈ text, 65 ≤ p.toNat ∧ p.toNat ≤ 70) →
    ∃ t u, exec (.hexdec c) s = .next t ∧ t.status = 0 ∧ exec (.hexenc d) { t with bin := .holds t.bout } = .next u ∧
      u.tout ≠ text) ∧
  (∀ (c d : Ctl) (s : State), s.tin = .holds [0x46, 0x46] →
    ∃ t, exec (.hexdec c) s = .next t ∧ t.status = 0 ∧ t.bout = [0xFF] ∧
      exec (.hexenc d) { t with bin := .holds t.bout } =
        .next { t with bin := .holds t.bout, tout := [0x66, 0x66], status := 0 })

/-! ## Extended UTF-8 -/

/-- U8ENC (43_utf8 R110, R111): BOUT takes the bytes of each code point in order, by R110's table. Nothing else changes. -/
def Obligations.U8encEncodesEveryText : Prop :=
  ∀ (c : Ctl) (s : State) (t : List CodePoint), s.tin = .holds t →
    ∃ out, exec (.u8enc c) s = .next { s with bout := out, status := 0 } ∧
      out.map BitVec.toNat = t.flatMap fun p => utf8Bytes p.toNat

/-- U8DEC (43_utf8 R112, R113, R114): an input made of whole sequences gives their code points; an input whose rest cannot be decoded
gives the code points before it, then a drawn tail; STATUS is 0 and nothing else changes; and every input is of one of these
two kinds, so U8DEC always completes. -/
def Obligations.U8decDecodesEveryByteList : Prop :=
  ∀ (c : Ctl) (s : State) (bs : List Byte), s.bin = .holds bs →
    (∀ pieces : List (List Byte × CodePoint), (∀ q ∈ pieces, IsSequence q.1 q.2.toNat) →
      (bs = pieces.flatMap Prod.fst → exec (.u8dec c) s = .next { s with tout := pieces.map Prod.snd, status := 0 }) ∧
      (∀ rest, UndecodableRest rest → bs = pieces.flatMap Prod.fst ++ rest →
        ∃ tail, exec (.u8dec c) s = .next { s with tout := pieces.map Prod.snd ++ tail, status := 0, draws := s.draws + 1 })) ∧
    ∃ pieces : List (List Byte × CodePoint), (∀ q ∈ pieces, IsSequence q.1 q.2.toNat) ∧
      (bs = pieces.flatMap Prod.fst ∨ ∃ rest, UndecodableRest rest ∧ bs = pieces.flatMap Prod.fst ++ rest)

/-- UTF-8 round trip (43_utf8 R115): for every text, U8ENC then U8DEC gives it back with no drawn tail; the converse fails for the
overlong [0xC0, 0x80] and for the malformed [0x80, 0x80], which decode to [0], which encodes to [0x00]. -/
def Obligations.Utf8RoundTrip : Prop :=
  (∀ (c d : Ctl) (s : State) (text : List CodePoint), s.tin = .holds text →
    ∃ t, exec (.u8enc c) s = .next t ∧ t.status = 0 ∧
      exec (.u8dec d) { t with bin := .holds t.bout } = .next { t with bin := .holds t.bout, tout := text, status := 0 }) ∧
  (∀ (c d : Ctl) (s : State), s.bin = .holds [0xC0, 0x80] ∨ s.bin = .holds [0x80, 0x80] →
    ∃ t, exec (.u8dec c) s = .next t ∧ t.tout = [0] ∧
      exec (.u8enc d) { t with tin := .holds t.tout } = .next { t with tin := .holds t.tout, bout := [0x00], status := 0 })

/-! ## Integer commands -/

/-- The unsigned integer reads at a good offset (44_integer R140, R142, R143, R146, R147), in either assertion mode. -/
def Obligations.UnsignedReadsGiveTheBytes : Prop :=
  ∀ c : Ctl,
    ReadsNumber (.readU8 c) 1 (fun s o => s.byteAt o) ∧
    ReadsNumber (.readU16LE c) 2 (fun s o => s.byteAt o + 256 * s.byteAt (o + 1)) ∧
    ReadsNumber (.readU16BE c) 2 (fun s o => 256 * s.byteAt o + s.byteAt (o + 1)) ∧
    ReadsNumber (.readU32LE c) 4 (fun s o => s.lePattern o 4) ∧
    ReadsNumber (.readU32BE c) 4 (fun s o => s.bePattern o 4)

/-- The signed integer reads at a good offset (44_integer R141, R144, R145, R148, R149), in either assertion mode. -/
def Obligations.SignedReadsAdjustTheBytes : Prop :=
  ∀ c : Ctl,
    ReadsNumber (.readI8 c) 1 (fun s o => signedValue 8 (s.byteAt o)) ∧
    ReadsNumber (.readI16LE c) 2 (fun s o => signedValue 16 (s.byteAt o + 256 * s.byteAt (o + 1))) ∧
    ReadsNumber (.readI16BE c) 2 (fun s o => signedValue 16 (256 * s.byteAt o + s.byteAt (o + 1))) ∧
    ReadsNumber (.readI32LE c) 4 (fun s o => signedValue 32 (s.lePattern o 4)) ∧
    ReadsNumber (.readI32BE c) 4 (fun s o => signedValue 32 (s.bePattern o 4))

/-- Every numeric read whose offset is missing or out of bounds (44_integer R133, 45_float R177): with A = 1 TypeError or RangeError
and nothing else; with A = 0 a drawn RESULT and STATUS 0. -/
def Obligations.ReadsAtABadOffset : Prop :=
  ∀ (i : Instr) (n : Nat) (s : State), commandClass i = .numericRead n →
    (i.ctl.ov = false → exec i s = .next (if i.ctl.a then { s with status := 6 }
      else { s with result := Config.drawResult s.draws, status := 0, draws := s.draws + 1 })) ∧
    (∀ o, i.ctl.ov = true → s.off = .holds o → s.len < o + n → exec i s = .next (if i.ctl.a then { s with status := 5 }
      else { s with result := Config.drawResult s.draws, status := 0, draws := s.draws + 1 }))

/-- The unsigned integer writes of a good value at a good offset (44_integer R150, R152, R153, R156, R157), in either assertion mode. -/
def Obligations.UnsignedWritesStoreTheValue : Prop :=
  ∀ c : Ctl,
    WritesInteger (.writeU8 c) 1 0 255 (fun j => j) ∧
    WritesInteger (.writeU16LE c) 2 0 65535 (fun j => j) ∧
    WritesInteger (.writeU16BE c) 2 0 65535 (fun j => 1 - j) ∧
    WritesInteger (.writeU32LE c) 4 0 4294967295 (fun j => j) ∧
    WritesInteger (.writeU32BE c) 4 0 4294967295 (fun j => 3 - j)

/-- The signed integer writes of a good value at a good offset (44_integer R151, R154, R155, R158, R159), in either assertion mode. -/
def Obligations.SignedWritesStoreTwosComplement : Prop :=
  ∀ c : Ctl,
    WritesInteger (.writeI8 c) 1 (-128) 127 (fun j => j) ∧
    WritesInteger (.writeI16LE c) 2 (-32768) 32767 (fun j => j) ∧
    WritesInteger (.writeI16BE c) 2 (-32768) 32767 (fun j => 1 - j) ∧
    WritesInteger (.writeI32LE c) 4 (-2147483648) 2147483647 (fun j => j) ∧
    WritesInteger (.writeI32BE c) 4 (-2147483648) 2147483647 (fun j => 3 - j)

/-- Every numeric write with A = 1 whose operands the host has written (44_integer R134, 45_float R176): a missing offset or value is
TypeError, then an offset out of bounds is RangeError; nothing else changes. -/
def Obligations.CheckedWritesRefuseBadOperands : Prop :=
  ∀ (i : Instr) (n : Nat) (s : State), commandClass i = .numericWrite n → i.ctl.a = true → OperandsWritten i s →
    (i.ctl.ov = false ∨ i.ctl.vv = false → exec i s = .next { s with status := 6 }) ∧
    (∀ o, i.ctl.ov = true → i.ctl.vv = true → s.off = .holds o → s.len < o + n → exec i s = .next { s with status := 5 })

/-- Every integer write with A = 1 at a good offset (44_integer R134): NaN, the infinities and a value outside [MIN, MAX] are
RangeError; a value in the range that is no integer is FractionalValueError; nothing else changes. -/
def Obligations.CheckedIntegerWritesRefuseBadValues : Prop :=
  ∀ (i : Instr) (n : Nat) (lo hi : ℤ) (s : State) (o : Nat) (b : Bits64), intWriteRange i = some (n, lo, hi) →
    i.ctl.a = true → i.ctl.ov = true → i.ctl.vv = true → s.off = .holds o → s.val = .holds b → o + n ≤ s.len →
    (¬ finite64 b ∨ value64 b < lo ∨ value64 b > hi → exec i s = .next { s with status := 5 }) ∧
    (finite64 b → lo ≤ value64 b → value64 b ≤ hi → (∀ x : ℤ, value64 b ≠ x) → exec i s = .next { s with status := 7 })

/-- Every numeric write with A = 0, a good offset and a missing value, and every integer write with A = 0, a good offset and a value
that is NaN, infinite, out of range or no integer (44_integer R134, 45_float R176): `n` drawn bytes at OFF .. OFF+n-1, STATUS 0,
and nothing else but the count of draws. -/
def Obligations.UncheckedWritesOfABadValueStoreDrawnBytes : Prop :=
  (∀ (i : Instr) (n : Nat) (s : State) (o : Nat), commandClass i = .numericWrite n → i.ctl.a = false → i.ctl.ov = true →
    i.ctl.vv = false → s.off = .holds o → o + n ≤ s.len → s.buf.wf = true →
    ∃ m, exec i s = .next { s with buf := m, status := 0, draws := s.draws + 1 } ∧ SameOutside s.buf m o n ∧
      ∀ j < n, m.read (o + j) = Config.drawByte s.draws j) ∧
  (∀ (i : Instr) (n : Nat) (lo hi : ℤ) (s : State) (o : Nat) (b : Bits64), intWriteRange i = some (n, lo, hi) →
    i.ctl.a = false → i.ctl.ov = true → i.ctl.vv = true → s.off = .holds o → s.val = .holds b → o + n ≤ s.len →
    (¬ finite64 b ∨ value64 b < lo ∨ value64 b > hi ∨ ∀ x : ℤ, value64 b ≠ x) → s.buf.wf = true →
    ∃ m, exec i s = .next { s with buf := m, status := 0, draws := s.draws + 1 } ∧ SameOutside s.buf m o n ∧
      ∀ j < n, m.read (o + j) = Config.drawByte s.draws j)

/-- Every numeric write with A = 0 whose operands the host has written and whose offset is missing or out of bounds ends in
`undefined` (44_integer R134, 45_float R176, 60_exceptions R214). -/
def Obligations.UncheckedWritesAtABadOffsetAreUndefined : Prop :=
  ∀ (i : Instr) (n : Nat) (s : State), commandClass i = .numericWrite n → i.ctl.a = false → OperandsWritten i s →
    (i.ctl.ov = false → exec i s = .fault (.undefinedOutcome .offsetAbsent s.faulted)) ∧
    (∀ o, i.ctl.ov = true → s.off = .holds o → s.len < o + n →
      exec i s = .fault (.undefinedOutcome .offsetOutOfBounds s.faulted))

/-- Integer round trip (44_integer R135): each write then the read of the same type and byte order gives the value back, and the read
of the other signedness gives the other conversion of R132. -/
def Obligations.IntegerRoundTrip : Prop :=
  (WriteThenRead .writeU8 .readU8 1 0 255 id ∧ WriteThenRead .writeI8 .readI8 1 (-128) 127 id ∧
    WriteThenRead .writeU16LE .readU16LE 2 0 65535 id ∧ WriteThenRead .writeU16BE .readU16BE 2 0 65535 id ∧
    WriteThenRead .writeI16LE .readI16LE 2 (-32768) 32767 id ∧ WriteThenRead .writeI16BE .readI16BE 2 (-32768) 32767 id ∧
    WriteThenRead .writeU32LE .readU32LE 4 0 4294967295 id ∧ WriteThenRead .writeU32BE .readU32BE 4 0 4294967295 id ∧
    WriteThenRead .writeI32LE .readI32LE 4 (-2147483648) 2147483647 id ∧
    WriteThenRead .writeI32BE .readI32BE 4 (-2147483648) 2147483647 id) ∧
  (WriteThenRead .writeI8 .readU8 1 (-128) 127 (· % 256) ∧
    WriteThenRead .writeI16LE .readU16LE 2 (-32768) 32767 (· % 65536) ∧
    WriteThenRead .writeI16BE .readU16BE 2 (-32768) 32767 (· % 65536) ∧
    WriteThenRead .writeI32LE .readU32LE 4 (-2147483648) 2147483647 (· % 4294967296) ∧
    WriteThenRead .writeI32BE .readU32BE 4 (-2147483648) 2147483647 (· % 4294967296) ∧
    WriteThenRead .writeU8 .readI8 1 0 255 (fun x => signedValue 8 x.toNat) ∧
    WriteThenRead .writeU16LE .readI16LE 2 0 65535 (fun x => signedValue 16 x.toNat) ∧
    WriteThenRead .writeU16BE .readI16BE 2 0 65535 (fun x => signedValue 16 x.toNat) ∧
    WriteThenRead .writeU32LE .readI32LE 4 0 4294967295 (fun x => signedValue 32 x.toNat) ∧
    WriteThenRead .writeU32BE .readI32BE 4 0 4294967295 (fun x => signedValue 32 x.toNat))

/-- Mixed widths see plain bytes (20_memory R44). After any numeric write that completes with STATUS 0, any numeric read at any offset
in bounds sees, in its own width and byte order, the byte the write stored at each address inside OFF .. OFF+n-1 and the byte that stood
there before at every other; and R44's example: a 4-byte big-endian write of 0x11223344, then a 2-byte little-endian read one byte
further, reads 0x22 and 0x33 and gives 0x3322. -/
def Obligations.MixedWidthsSeePlainBytes : Prop :=
  (∀ (w r : Instr) (n m : Nat) (s t : State) (o o' : Nat), commandClass w = .numericWrite n → commandClass r = .numericRead m →
    s.buf.wf = true → s.off = .holds o → exec w s = .next t → t.status = 0 → r.ctl.ov = true → o' + m ≤ s.len →
    BytesStoredBy w s n (fun j => t.byteAt (o + j)) ∧
    ∃ u, exec r { t with off := .holds o' } = .next u ∧ u.status = 0 ∧
      ReadsPatternAs r
        (patternOf (bigEndian r) m fun j =>
          if o ≤ o' + j ∧ o' + j < o + n then t.byteAt (o' + j) else s.byteAt (o' + j)) u.result) ∧
  (∀ (c d : Ctl) (s : State) (o : Nat) (b : Bits64), c.ov = true → c.vv = true → d.ov = true → s.off = .holds o →
    s.val = .holds b → isBits64 0x11223344 b → o + 4 ≤ s.len → s.buf.wf = true →
    ∃ t u, exec (.writeU32BE c) s = .next t ∧ exec (.readU16LE d) { t with off := .holds (o + 1) } = .next u ∧
      u.status = 0 ∧ isBits64 0x3322 u.result)

/-! ## Float commands -/

/-- The single-precision reads at a good offset (45_float R172, R180, R181): a finite pattern gives its exact value with its sign (a
negative zero -0.0), an infinity the infinity, a NaN some NaN (drawn). Nothing else changes but the count of draws for a NaN. -/
def Obligations.SingleReadsAreExact : Prop :=
  ∀ (c : Ctl) (s : State) (o : Nat), c.ov = true → s.off = .holds o → o + 4 ≤ s.len →
    ∀ q ∈ [(Instr.readF32LE c, s.lePattern o 4), (Instr.readF32BE c, s.bePattern o 4)],
      let p : Bits32 := BitVec.ofNat 32 q.2
      (finite32 p → ∃ r, exec q.1 s = .next { s with result := r, status := 0 } ∧ finite64 r ∧ value64 r = value32 p ∧
        bitField r.toNat 63 63 = bitField p.toNat 31 31) ∧
      (p = 0x7F800000 → exec q.1 s = .next { s with result := 0x7FF0000000000000, status := 0 }) ∧
      (p = 0xFF800000 → exec q.1 s = .next { s with result := 0xFFF0000000000000, status := 0 }) ∧
      (nanPattern32 p → ∃ r, exec q.1 s = .next { s with result := r, status := 0, draws := s.draws + 1 } ∧ nanPattern64 r)

/-- The double-precision reads at a good offset (45_float R175, R182, R183): every pattern that is not a NaN is returned unchanged; a
NaN gives some NaN (drawn). Nothing else changes but the count of draws for a NaN. -/
def Obligations.DoubleReadsReturnThePattern : Prop :=
  ∀ (c : Ctl) (s : State) (o : Nat), c.ov = true → s.off = .holds o → o + 8 ≤ s.len →
    ∀ q ∈ [(Instr.readF64LE c, s.lePattern o 8), (Instr.readF64BE c, s.bePattern o 8)],
      let p : Bits64 := BitVec.ofNat 64 q.2
      (¬ nanPattern64 p → exec q.1 s = .next { s with result := p, status := 0 }) ∧
      (nanPattern64 p → ∃ r, exec q.1 s = .next { s with result := r, status := 0, draws := s.draws + 1 } ∧ nanPattern64 r)

/-- The double-precision writes at a good offset, in either assertion mode (45_float R175, R176, R186, R187): VAL is stored bit for
bit, but -0.0 is stored as NEG_ZERO_WRITE says and a NaN as some NaN pattern (drawn). -/
def Obligations.DoubleWritesStoreThePattern : Prop :=
  ∀ (c : Ctl) (s : State) (o : Nat) (b : Bits64), c.ov = true → c.vv = true → s.off = .holds o → s.val = .holds b →
    o + 8 ≤ s.len → s.buf.wf = true → ∀ q ∈ [(Instr.writeF64LE c, false), (Instr.writeF64BE c, true)],
      (¬ nanPattern64 b → b ≠ 0x8000000000000000 → StoresPattern q.1 s o 8 q.2 b.toNat s.draws) ∧
      (b = 0x8000000000000000 → StoresPattern q.1 s o 8 q.2
        (if s.params.negZeroWrite = .keepSign then 0x8000000000000000 else 0) s.draws) ∧
      (nanPattern64 b → ∃ p : Bits64, nanPattern64 p ∧ StoresPattern q.1 s o 8 q.2 p.toNat (s.draws + 1))

/-- The single-precision writes at a good offset, in either assertion mode, of a value that is not a finite number other than zero
(45_float R173, R184, R185): zeros by NEG_ZERO_WRITE, the infinities exactly, a NaN as some NaN pattern (drawn). -/
def Obligations.SingleWritesOfSpecialValues : Prop :=
  ∀ (c : Ctl) (s : State) (o : Nat) (b : Bits64), c.ov = true → c.vv = true → s.off = .holds o → s.val = .holds b →
    o + 4 ≤ s.len → s.buf.wf = true → ∀ q ∈ [(Instr.writeF32LE c, false), (Instr.writeF32BE c, true)],
      (b = 0 → StoresPattern q.1 s o 4 q.2 0 s.draws) ∧
      (b = 0x8000000000000000 → StoresPattern q.1 s o 4 q.2
        (if s.params.negZeroWrite = .keepSign then 0x80000000 else 0) s.draws) ∧
      (b = 0x7FF0000000000000 → StoresPattern q.1 s o 4 q.2 0x7F800000 s.draws) ∧
      (b = 0xFFF0000000000000 → StoresPattern q.1 s o 4 q.2 0xFF800000 s.draws) ∧
      (nanPattern64 b → ∃ p : Bits32, nanPattern32 p ∧ StoresPattern q.1 s o 4 q.2 p.toNat (s.draws + 1))

/-- The single-precision writes at a good offset of a finite value other than zero with |v| <= MAXF32, in either assertion mode
(45_float R173, R174, R184, R185): the stored pattern is finite, has the sign of v, and no binary32 number is nearer to v; where
another number is as near, the stored one is the larger in magnitude (TIES_AWAY) or has an even fraction (TIES_EVEN). -/
def Obligations.SingleWritesStoreTheNearest : Prop :=
  ∀ (c : Ctl) (s : State) (o : Nat) (b : Bits64), c.ov = true → c.vv = true → s.off = .holds o → s.val = .holds b →
    o + 4 ≤ s.len → finite64 b → value64 b ≠ 0 → |value64 b| ≤ maxF32 → s.buf.wf = true →
    ∀ q ∈ [(Instr.writeF32LE c, false), (Instr.writeF32BE c, true)],
      ∃ p : Bits32, StoresPattern q.1 s o 4 q.2 p.toNat s.draws ∧ finite32 p ∧
        bitField p.toNat 31 31 = bitField b.toNat 63 63 ∧
        ∀ p' : Bits32, finite32 p' → |value32 p - value64 b| ≤ |value32 p' - value64 b| ∧
          (|value32 p - value64 b| = |value32 p' - value64 b| → value32 p' ≠ value32 p →
            if s.params.f32Ties = .away then |value32 p'| < |value32 p| else p.toNat % 2 = 0)

/-- A single-precision write at a good offset of a finite value beyond MAXF32 (45_float R176): with A = 1 RangeError and nothing
else; with A = 0 four drawn bytes at OFF .. OFF+3 and STATUS 0. -/
def Obligations.SingleWritesBeyondTheRange : Prop :=
  ∀ (c : Ctl) (s : State) (o : Nat) (b : Bits64), c.ov = true → c.vv = true → s.off = .holds o → s.val = .holds b →
    o + 4 ≤ s.len → finite64 b → maxF32 < |value64 b| → s.buf.wf = true →
    ∀ i ∈ [Instr.writeF32LE c, Instr.writeF32BE c],
      (c.a = true → exec i s = .next { s with status := 5 }) ∧
      (c.a = false → ∃ m, exec i s = .next { s with buf := m, status := 0, draws := s.draws + 1 } ∧
        SameOutside s.buf m o 4 ∧ ∀ j < 4, m.read (o + j) = Config.drawByte s.draws j)

/-- Double-precision round trip (45_float R179): a write then a read in the same byte order gives RESULT = VAL for every VAL but a NaN,
which comes back as a NaN, and -0.0 under CLEAR_SIGN, which comes back as +0.0. -/
def Obligations.DoubleRoundTrip : Prop :=
  ∀ (c d : Ctl) (s : State) (o : Nat) (b : Bits64), c.ov = true → c.vv = true → d.ov = true → s.off = .holds o →
    s.val = .holds b → o + 8 ≤ s.len → s.buf.wf = true →
    ∀ q ∈ [(Instr.writeF64LE c, Instr.readF64LE d), (Instr.writeF64BE c, Instr.readF64BE d)],
      ∃ t u, exec q.1 s = .next t ∧ t.status = 0 ∧ exec q.2 t = .next u ∧ u.status = 0 ∧
        (if nanPattern64 b then nanPattern64 u.result
          else if b = 0x8000000000000000 ∧ s.params.negZeroWrite = .clearSign then u.result = 0 else u.result = b)

/-- Single-precision round trip (45_float R179): a write then a read in the same byte order gives a value within half a binary32 unit
in the last place of v (the quantum of v's binade, 2^-149 below 2^-126); a NaN comes back as a NaN and the infinities exactly. -/
def Obligations.SingleRoundTrip : Prop :=
  ∀ (c d : Ctl) (s : State) (o : Nat) (b : Bits64), c.ov = true → c.vv = true → d.ov = true → s.off = .holds o →
    s.val = .holds b → o + 4 ≤ s.len → (finite64 b → |value64 b| ≤ maxF32) → s.buf.wf = true →
    ∀ q ∈ [(Instr.writeF32LE c, Instr.readF32LE d), (Instr.writeF32BE c, Instr.readF32BE d)],
      ∃ t u, exec q.1 s = .next t ∧ t.status = 0 ∧ exec q.2 t = .next u ∧ u.status = 0 ∧
        (nanPattern64 b → nanPattern64 u.result) ∧ (¬ finite64 b → ¬ nanPattern64 b → u.result = b) ∧
        (finite64 b → finite64 u.result ∧ |value64 u.result - value64 b| ≤ 2 ^ (-149 : ℤ) / 2 ∨
          ∃ e : ℤ, -126 ≤ e ∧ 2 ^ e ≤ |value64 b| ∧ finite64 u.result ∧ |value64 u.result - value64 b| ≤ 2 ^ (e - 23) / 2)
end

