-- ==== Sys2Proof/Laws/State.lean ====
section
/-! SUPPORT. Laws/State.lean: one lemma for each field of each update of the state, so that no proof unfolds a record update. -/

namespace Sys2Proof.Machine

variable (s : State)

/-! ### setStatus -/

@[simp] theorem State.setStatus_params (c : BitVec 4) : (s.setStatus c).params = s.params := rfl
@[simp] theorem State.setStatus_len (c : BitVec 4) : (s.setStatus c).len = s.len := rfl
@[simp] theorem State.setStatus_buf (c : BitVec 4) : (s.setStatus c).buf = s.buf := rfl
@[simp] theorem State.setStatus_cmd (c : BitVec 4) : (s.setStatus c).cmd = s.cmd := rfl
@[simp] theorem State.setStatus_off (c : BitVec 4) : (s.setStatus c).off = s.off := rfl
@[simp] theorem State.setStatus_val (c : BitVec 4) : (s.setStatus c).val = s.val := rfl
@[simp] theorem State.setStatus_tin (c : BitVec 4) : (s.setStatus c).tin = s.tin := rfl
@[simp] theorem State.setStatus_bin (c : BitVec 4) : (s.setStatus c).bin = s.bin := rfl
@[simp] theorem State.setStatus_result (c : BitVec 4) : (s.setStatus c).result = s.result := rfl
@[simp] theorem State.setStatus_status (c : BitVec 4) : (s.setStatus c).status = c := rfl
@[simp] theorem State.setStatus_tout (c : BitVec 4) : (s.setStatus c).tout = s.tout := rfl
@[simp] theorem State.setStatus_bout (c : BitVec 4) : (s.setStatus c).bout = s.bout := rfl
@[simp] theorem State.setStatus_undef (c : BitVec 4) : (s.setStatus c).undef = s.undef := rfl
@[simp] theorem State.setStatus_csp (c : BitVec 4) : (s.setStatus c).csp = s.csp := rfl
@[simp] theorem State.setStatus_script (c : BitVec 4) : (s.setStatus c).script = s.script := rfl
@[simp] theorem State.setStatus_draws (c : BitVec 4) : (s.setStatus c).draws = s.draws := rfl

/-! ### setResult -/

@[simp] theorem State.setResult_params (r : Bits64) : (s.setResult r).params = s.params := rfl
@[simp] theorem State.setResult_len (r : Bits64) : (s.setResult r).len = s.len := rfl
@[simp] theorem State.setResult_buf (r : Bits64) : (s.setResult r).buf = s.buf := rfl
@[simp] theorem State.setResult_cmd (r : Bits64) : (s.setResult r).cmd = s.cmd := rfl
@[simp] theorem State.setResult_off (r : Bits64) : (s.setResult r).off = s.off := rfl
@[simp] theorem State.setResult_val (r : Bits64) : (s.setResult r).val = s.val := rfl
@[simp] theorem State.setResult_tin (r : Bits64) : (s.setResult r).tin = s.tin := rfl
@[simp] theorem State.setResult_bin (r : Bits64) : (s.setResult r).bin = s.bin := rfl
@[simp] theorem State.setResult_result (r : Bits64) : (s.setResult r).result = r := rfl
@[simp] theorem State.setResult_status (r : Bits64) : (s.setResult r).status = s.status := rfl
@[simp] theorem State.setResult_tout (r : Bits64) : (s.setResult r).tout = s.tout := rfl
@[simp] theorem State.setResult_bout (r : Bits64) : (s.setResult r).bout = s.bout := rfl
@[simp] theorem State.setResult_undef (r : Bits64) : (s.setResult r).undef = s.undef := rfl
@[simp] theorem State.setResult_csp (r : Bits64) : (s.setResult r).csp = s.csp := rfl
@[simp] theorem State.setResult_script (r : Bits64) : (s.setResult r).script = s.script := rfl
@[simp] theorem State.setResult_draws (r : Bits64) : (s.setResult r).draws = s.draws := rfl

/-! ### setTout -/

@[simp] theorem State.setTout_params (t : List CodePoint) : (s.setTout t).params = s.params := rfl
@[simp] theorem State.setTout_len (t : List CodePoint) : (s.setTout t).len = s.len := rfl
@[simp] theorem State.setTout_buf (t : List CodePoint) : (s.setTout t).buf = s.buf := rfl
@[simp] theorem State.setTout_cmd (t : List CodePoint) : (s.setTout t).cmd = s.cmd := rfl
@[simp] theorem State.setTout_off (t : List CodePoint) : (s.setTout t).off = s.off := rfl
@[simp] theorem State.setTout_val (t : List CodePoint) : (s.setTout t).val = s.val := rfl
@[simp] theorem State.setTout_tin (t : List CodePoint) : (s.setTout t).tin = s.tin := rfl
@[simp] theorem State.setTout_bin (t : List CodePoint) : (s.setTout t).bin = s.bin := rfl
@[simp] theorem State.setTout_result (t : List CodePoint) : (s.setTout t).result = s.result := rfl
@[simp] theorem State.setTout_status (t : List CodePoint) : (s.setTout t).status = s.status := rfl
@[simp] theorem State.setTout_tout (t : List CodePoint) : (s.setTout t).tout = t := rfl
@[simp] theorem State.setTout_bout (t : List CodePoint) : (s.setTout t).bout = s.bout := rfl
@[simp] theorem State.setTout_undef (t : List CodePoint) : (s.setTout t).undef = s.undef := rfl
@[simp] theorem State.setTout_csp (t : List CodePoint) : (s.setTout t).csp = s.csp := rfl
@[simp] theorem State.setTout_script (t : List CodePoint) : (s.setTout t).script = s.script := rfl
@[simp] theorem State.setTout_draws (t : List CodePoint) : (s.setTout t).draws = s.draws := rfl

/-! ### setBout -/

@[simp] theorem State.setBout_params (b : List Byte) : (s.setBout b).params = s.params := rfl
@[simp] theorem State.setBout_len (b : List Byte) : (s.setBout b).len = s.len := rfl
@[simp] theorem State.setBout_buf (b : List Byte) : (s.setBout b).buf = s.buf := rfl
@[simp] theorem State.setBout_cmd (b : List Byte) : (s.setBout b).cmd = s.cmd := rfl
@[simp] theorem State.setBout_off (b : List Byte) : (s.setBout b).off = s.off := rfl
@[simp] theorem State.setBout_val (b : List Byte) : (s.setBout b).val = s.val := rfl
@[simp] theorem State.setBout_tin (b : List Byte) : (s.setBout b).tin = s.tin := rfl
@[simp] theorem State.setBout_bin (b : List Byte) : (s.setBout b).bin = s.bin := rfl
@[simp] theorem State.setBout_result (b : List Byte) : (s.setBout b).result = s.result := rfl
@[simp] theorem State.setBout_status (b : List Byte) : (s.setBout b).status = s.status := rfl
@[simp] theorem State.setBout_tout (b : List Byte) : (s.setBout b).tout = s.tout := rfl
@[simp] theorem State.setBout_bout (b : List Byte) : (s.setBout b).bout = b := rfl
@[simp] theorem State.setBout_undef (b : List Byte) : (s.setBout b).undef = s.undef := rfl
@[simp] theorem State.setBout_csp (b : List Byte) : (s.setBout b).csp = s.csp := rfl
@[simp] theorem State.setBout_script (b : List Byte) : (s.setBout b).script = s.script := rfl
@[simp] theorem State.setBout_draws (b : List Byte) : (s.setBout b).draws = s.draws := rfl

/-! ### memWrite -/

@[simp] theorem State.memWrite_params (a : Nat) (bs : List Byte) : (s.memWrite a bs).params = s.params := rfl
@[simp] theorem State.memWrite_len (a : Nat) (bs : List Byte) : (s.memWrite a bs).len = s.len := rfl
@[simp] theorem State.memWrite_buf (a : Nat) (bs : List Byte) : (s.memWrite a bs).buf = s.buf.writeBytes a bs := rfl
@[simp] theorem State.memWrite_cmd (a : Nat) (bs : List Byte) : (s.memWrite a bs).cmd = s.cmd := rfl
@[simp] theorem State.memWrite_off (a : Nat) (bs : List Byte) : (s.memWrite a bs).off = s.off := rfl
@[simp] theorem State.memWrite_val (a : Nat) (bs : List Byte) : (s.memWrite a bs).val = s.val := rfl
@[simp] theorem State.memWrite_tin (a : Nat) (bs : List Byte) : (s.memWrite a bs).tin = s.tin := rfl
@[simp] theorem State.memWrite_bin (a : Nat) (bs : List Byte) : (s.memWrite a bs).bin = s.bin := rfl
@[simp] theorem State.memWrite_result (a : Nat) (bs : List Byte) : (s.memWrite a bs).result = s.result := rfl
@[simp] theorem State.memWrite_status (a : Nat) (bs : List Byte) : (s.memWrite a bs).status = s.status := rfl
@[simp] theorem State.memWrite_tout (a : Nat) (bs : List Byte) : (s.memWrite a bs).tout = s.tout := rfl
@[simp] theorem State.memWrite_bout (a : Nat) (bs : List Byte) : (s.memWrite a bs).bout = s.bout := rfl
@[simp] theorem State.memWrite_undef (a : Nat) (bs : List Byte) : (s.memWrite a bs).undef = s.undef := rfl
@[simp] theorem State.memWrite_csp (a : Nat) (bs : List Byte) : (s.memWrite a bs).csp = s.csp := rfl
@[simp] theorem State.memWrite_script (a : Nat) (bs : List Byte) : (s.memWrite a bs).script = s.script := rfl
@[simp] theorem State.memWrite_draws (a : Nat) (bs : List Byte) : (s.memWrite a bs).draws = s.draws := rfl

/-! ### drew -/

@[simp] theorem State.drew_params : s.drew.params = s.params := rfl
@[simp] theorem State.drew_len : s.drew.len = s.len := rfl
@[simp] theorem State.drew_buf : s.drew.buf = s.buf := rfl
@[simp] theorem State.drew_cmd : s.drew.cmd = s.cmd := rfl
@[simp] theorem State.drew_off : s.drew.off = s.off := rfl
@[simp] theorem State.drew_val : s.drew.val = s.val := rfl
@[simp] theorem State.drew_tin : s.drew.tin = s.tin := rfl
@[simp] theorem State.drew_bin : s.drew.bin = s.bin := rfl
@[simp] theorem State.drew_result : s.drew.result = s.result := rfl
@[simp] theorem State.drew_status : s.drew.status = s.status := rfl
@[simp] theorem State.drew_tout : s.drew.tout = s.tout := rfl
@[simp] theorem State.drew_bout : s.drew.bout = s.bout := rfl
@[simp] theorem State.drew_undef : s.drew.undef = s.undef := rfl
@[simp] theorem State.drew_csp : s.drew.csp = s.csp := rfl
@[simp] theorem State.drew_script : s.drew.script = s.script := rfl
@[simp] theorem State.drew_draws : s.drew.draws = s.draws + 1 := rfl

/-! ### done -/

@[simp] theorem State.done_params : s.done.params = s.params := rfl
@[simp] theorem State.done_len : s.done.len = s.len := rfl
@[simp] theorem State.done_buf : s.done.buf = s.buf := rfl
@[simp] theorem State.done_cmd : s.done.cmd = s.cmd := rfl
@[simp] theorem State.done_off : s.done.off = s.off := rfl
@[simp] theorem State.done_val : s.done.val = s.val := rfl
@[simp] theorem State.done_tin : s.done.tin = s.tin := rfl
@[simp] theorem State.done_bin : s.done.bin = s.bin := rfl
@[simp] theorem State.done_result : s.done.result = s.result := rfl
@[simp] theorem State.done_status : s.done.status = 0 := rfl
@[simp] theorem State.done_tout : s.done.tout = s.tout := rfl
@[simp] theorem State.done_bout : s.done.bout = s.bout := rfl
@[simp] theorem State.done_undef : s.done.undef = s.undef := rfl
@[simp] theorem State.done_csp : s.done.csp = s.csp := rfl
@[simp] theorem State.done_script : s.done.script = s.script := rfl
@[simp] theorem State.done_draws : s.done.draws = s.draws := rfl

/-! ### latch -/

@[simp] theorem State.latch_params (w : CommandWord) : (s.latch w).params = s.params := rfl
@[simp] theorem State.latch_len (w : CommandWord) : (s.latch w).len = s.len := rfl
@[simp] theorem State.latch_buf (w : CommandWord) : (s.latch w).buf = s.buf := rfl
@[simp] theorem State.latch_cmd (w : CommandWord) : (s.latch w).cmd = .holds w := rfl
@[simp] theorem State.latch_off (w : CommandWord) : (s.latch w).off = s.off := rfl
@[simp] theorem State.latch_val (w : CommandWord) : (s.latch w).val = s.val := rfl
@[simp] theorem State.latch_tin (w : CommandWord) : (s.latch w).tin = s.tin := rfl
@[simp] theorem State.latch_bin (w : CommandWord) : (s.latch w).bin = s.bin := rfl
@[simp] theorem State.latch_result (w : CommandWord) : (s.latch w).result = s.result := rfl
@[simp] theorem State.latch_status (w : CommandWord) : (s.latch w).status = s.status := rfl
@[simp] theorem State.latch_tout (w : CommandWord) : (s.latch w).tout = s.tout := rfl
@[simp] theorem State.latch_bout (w : CommandWord) : (s.latch w).bout = s.bout := rfl
@[simp] theorem State.latch_undef (w : CommandWord) : (s.latch w).undef = s.undef := rfl
@[simp] theorem State.latch_csp (w : CommandWord) : (s.latch w).csp = s.csp + 1 := rfl
@[simp] theorem State.latch_script (w : CommandWord) : (s.latch w).script = s.script := rfl
@[simp] theorem State.latch_draws (w : CommandWord) : (s.latch w).draws = s.draws := rfl

/-! ### withScript -/

@[simp] theorem State.withScript_params (l : List HostWrite) : (s.withScript l).params = s.params := rfl
@[simp] theorem State.withScript_len (l : List HostWrite) : (s.withScript l).len = s.len := rfl
@[simp] theorem State.withScript_buf (l : List HostWrite) : (s.withScript l).buf = s.buf := rfl
@[simp] theorem State.withScript_cmd (l : List HostWrite) : (s.withScript l).cmd = s.cmd := rfl
@[simp] theorem State.withScript_off (l : List HostWrite) : (s.withScript l).off = s.off := rfl
@[simp] theorem State.withScript_val (l : List HostWrite) : (s.withScript l).val = s.val := rfl
@[simp] theorem State.withScript_tin (l : List HostWrite) : (s.withScript l).tin = s.tin := rfl
@[simp] theorem State.withScript_bin (l : List HostWrite) : (s.withScript l).bin = s.bin := rfl
@[simp] theorem State.withScript_result (l : List HostWrite) : (s.withScript l).result = s.result := rfl
@[simp] theorem State.withScript_status (l : List HostWrite) : (s.withScript l).status = s.status := rfl
@[simp] theorem State.withScript_tout (l : List HostWrite) : (s.withScript l).tout = s.tout := rfl
@[simp] theorem State.withScript_bout (l : List HostWrite) : (s.withScript l).bout = s.bout := rfl
@[simp] theorem State.withScript_undef (l : List HostWrite) : (s.withScript l).undef = s.undef := rfl
@[simp] theorem State.withScript_csp (l : List HostWrite) : (s.withScript l).csp = s.csp := rfl
@[simp] theorem State.withScript_script (l : List HostWrite) : (s.withScript l).script = l := rfl
@[simp] theorem State.withScript_draws (l : List HostWrite) : (s.withScript l).draws = s.draws := rfl

/-! ### hostVal -/

@[simp] theorem State.hostVal_params (v : Bits64) : (s.hostVal v).params = s.params := rfl
@[simp] theorem State.hostVal_len (v : Bits64) : (s.hostVal v).len = s.len := rfl
@[simp] theorem State.hostVal_buf (v : Bits64) : (s.hostVal v).buf = s.buf := rfl
@[simp] theorem State.hostVal_cmd (v : Bits64) : (s.hostVal v).cmd = s.cmd := rfl
@[simp] theorem State.hostVal_off (v : Bits64) : (s.hostVal v).off = s.off := rfl
@[simp] theorem State.hostVal_val (v : Bits64) : (s.hostVal v).val = .holds v := rfl
@[simp] theorem State.hostVal_tin (v : Bits64) : (s.hostVal v).tin = s.tin := rfl
@[simp] theorem State.hostVal_bin (v : Bits64) : (s.hostVal v).bin = s.bin := rfl
@[simp] theorem State.hostVal_result (v : Bits64) : (s.hostVal v).result = s.result := rfl
@[simp] theorem State.hostVal_status (v : Bits64) : (s.hostVal v).status = s.status := rfl
@[simp] theorem State.hostVal_tout (v : Bits64) : (s.hostVal v).tout = s.tout := rfl
@[simp] theorem State.hostVal_bout (v : Bits64) : (s.hostVal v).bout = s.bout := rfl
@[simp] theorem State.hostVal_undef (v : Bits64) : (s.hostVal v).undef = s.undef := rfl
@[simp] theorem State.hostVal_csp (v : Bits64) : (s.hostVal v).csp = s.csp := rfl
@[simp] theorem State.hostVal_script (v : Bits64) : (s.hostVal v).script = s.script := rfl
@[simp] theorem State.hostVal_draws (v : Bits64) : (s.hostVal v).draws = s.draws := rfl

/-! ### hostTin -/

@[simp] theorem State.hostTin_params (t : List CodePoint) : (s.hostTin t).params = s.params := rfl
@[simp] theorem State.hostTin_len (t : List CodePoint) : (s.hostTin t).len = s.len := rfl
@[simp] theorem State.hostTin_buf (t : List CodePoint) : (s.hostTin t).buf = s.buf := rfl
@[simp] theorem State.hostTin_cmd (t : List CodePoint) : (s.hostTin t).cmd = s.cmd := rfl
@[simp] theorem State.hostTin_off (t : List CodePoint) : (s.hostTin t).off = s.off := rfl
@[simp] theorem State.hostTin_val (t : List CodePoint) : (s.hostTin t).val = s.val := rfl
@[simp] theorem State.hostTin_tin (t : List CodePoint) : (s.hostTin t).tin = .holds t := rfl
@[simp] theorem State.hostTin_bin (t : List CodePoint) : (s.hostTin t).bin = s.bin := rfl
@[simp] theorem State.hostTin_result (t : List CodePoint) : (s.hostTin t).result = s.result := rfl
@[simp] theorem State.hostTin_status (t : List CodePoint) : (s.hostTin t).status = s.status := rfl
@[simp] theorem State.hostTin_tout (t : List CodePoint) : (s.hostTin t).tout = s.tout := rfl
@[simp] theorem State.hostTin_bout (t : List CodePoint) : (s.hostTin t).bout = s.bout := rfl
@[simp] theorem State.hostTin_undef (t : List CodePoint) : (s.hostTin t).undef = s.undef := rfl
@[simp] theorem State.hostTin_csp (t : List CodePoint) : (s.hostTin t).csp = s.csp := rfl
@[simp] theorem State.hostTin_script (t : List CodePoint) : (s.hostTin t).script = s.script := rfl
@[simp] theorem State.hostTin_draws (t : List CodePoint) : (s.hostTin t).draws = s.draws := rfl

/-! ### hostBin -/

@[simp] theorem State.hostBin_params (b : List Byte) : (s.hostBin b).params = s.params := rfl
@[simp] theorem State.hostBin_len (b : List Byte) : (s.hostBin b).len = s.len := rfl
@[simp] theorem State.hostBin_buf (b : List Byte) : (s.hostBin b).buf = s.buf := rfl
@[simp] theorem State.hostBin_cmd (b : List Byte) : (s.hostBin b).cmd = s.cmd := rfl
@[simp] theorem State.hostBin_off (b : List Byte) : (s.hostBin b).off = s.off := rfl
@[simp] theorem State.hostBin_val (b : List Byte) : (s.hostBin b).val = s.val := rfl
@[simp] theorem State.hostBin_tin (b : List Byte) : (s.hostBin b).tin = s.tin := rfl
@[simp] theorem State.hostBin_bin (b : List Byte) : (s.hostBin b).bin = .holds b := rfl
@[simp] theorem State.hostBin_result (b : List Byte) : (s.hostBin b).result = s.result := rfl
@[simp] theorem State.hostBin_status (b : List Byte) : (s.hostBin b).status = s.status := rfl
@[simp] theorem State.hostBin_tout (b : List Byte) : (s.hostBin b).tout = s.tout := rfl
@[simp] theorem State.hostBin_bout (b : List Byte) : (s.hostBin b).bout = s.bout := rfl
@[simp] theorem State.hostBin_undef (b : List Byte) : (s.hostBin b).undef = s.undef := rfl
@[simp] theorem State.hostBin_csp (b : List Byte) : (s.hostBin b).csp = s.csp := rfl
@[simp] theorem State.hostBin_script (b : List Byte) : (s.hostBin b).script = s.script := rfl
@[simp] theorem State.hostBin_draws (b : List Byte) : (s.hostBin b).draws = s.draws := rfl

/-! ### drewIf and raise -/

@[simp] theorem State.drewIf_params (c : Bool) : (s.drewIf c).params = s.params := by cases c <;> rfl
@[simp] theorem State.drewIf_len (c : Bool) : (s.drewIf c).len = s.len := by cases c <;> rfl
@[simp] theorem State.drewIf_buf (c : Bool) : (s.drewIf c).buf = s.buf := by cases c <;> rfl
@[simp] theorem State.drewIf_cmd (c : Bool) : (s.drewIf c).cmd = s.cmd := by cases c <;> rfl
@[simp] theorem State.drewIf_off (c : Bool) : (s.drewIf c).off = s.off := by cases c <;> rfl
@[simp] theorem State.drewIf_val (c : Bool) : (s.drewIf c).val = s.val := by cases c <;> rfl
@[simp] theorem State.drewIf_tin (c : Bool) : (s.drewIf c).tin = s.tin := by cases c <;> rfl
@[simp] theorem State.drewIf_bin (c : Bool) : (s.drewIf c).bin = s.bin := by cases c <;> rfl
@[simp] theorem State.drewIf_result (c : Bool) : (s.drewIf c).result = s.result := by cases c <;> rfl
@[simp] theorem State.drewIf_status (c : Bool) : (s.drewIf c).status = s.status := by cases c <;> rfl
@[simp] theorem State.drewIf_tout (c : Bool) : (s.drewIf c).tout = s.tout := by cases c <;> rfl
@[simp] theorem State.drewIf_bout (c : Bool) : (s.drewIf c).bout = s.bout := by cases c <;> rfl
@[simp] theorem State.drewIf_undef (c : Bool) : (s.drewIf c).undef = s.undef := by cases c <;> rfl
@[simp] theorem State.drewIf_csp (c : Bool) : (s.drewIf c).csp = s.csp := by cases c <;> rfl
@[simp] theorem State.drewIf_script (c : Bool) : (s.drewIf c).script = s.script := by cases c <;> rfl
@[simp] theorem State.drewIf_draws (c : Bool) : (s.drewIf c).draws = if c then s.draws + 1 else s.draws := by cases c <;> rfl

@[simp] theorem State.raise_params (o : OutStream) (e : ErrorKind) : (s.raise o e).params = s.params := by cases o <;> rfl
@[simp] theorem State.raise_len (o : OutStream) (e : ErrorKind) : (s.raise o e).len = s.len := by cases o <;> rfl
@[simp] theorem State.raise_buf (o : OutStream) (e : ErrorKind) : (s.raise o e).buf = s.buf := by cases o <;> rfl
@[simp] theorem State.raise_cmd (o : OutStream) (e : ErrorKind) : (s.raise o e).cmd = s.cmd := by cases o <;> rfl
@[simp] theorem State.raise_off (o : OutStream) (e : ErrorKind) : (s.raise o e).off = s.off := by cases o <;> rfl
@[simp] theorem State.raise_val (o : OutStream) (e : ErrorKind) : (s.raise o e).val = s.val := by cases o <;> rfl
@[simp] theorem State.raise_tin (o : OutStream) (e : ErrorKind) : (s.raise o e).tin = s.tin := by cases o <;> rfl
@[simp] theorem State.raise_bin (o : OutStream) (e : ErrorKind) : (s.raise o e).bin = s.bin := by cases o <;> rfl
@[simp] theorem State.raise_result (o : OutStream) (e : ErrorKind) : (s.raise o e).result = s.result := by cases o <;> rfl
@[simp] theorem State.raise_status (o : OutStream) (e : ErrorKind) : (s.raise o e).status = e.code := by cases o <;> rfl
@[simp] theorem State.raise_tout (o : OutStream) (e : ErrorKind) : (s.raise o e).tout = if o = .tout then [] else s.tout := by cases o <;> rfl
@[simp] theorem State.raise_bout (o : OutStream) (e : ErrorKind) : (s.raise o e).bout = if o = .bout then [] else s.bout := by cases o <;> rfl
@[simp] theorem State.raise_undef (o : OutStream) (e : ErrorKind) : (s.raise o e).undef = s.undef := by cases o <;> rfl
@[simp] theorem State.raise_csp (o : OutStream) (e : ErrorKind) : (s.raise o e).csp = s.csp := by cases o <;> rfl
@[simp] theorem State.raise_script (o : OutStream) (e : ErrorKind) : (s.raise o e).script = s.script := by cases o <;> rfl
@[simp] theorem State.raise_draws (o : OutStream) (e : ErrorKind) : (s.raise o e).draws = s.draws := by cases o <;> rfl

/-! `undefined` leaves UNDEF = 1 and keeps what R214 does not call unconstrained (60_exceptions R214). -/

@[simp] theorem State.faulted_params : s.faulted.params = s.params := rfl
@[simp] theorem State.faulted_len : s.faulted.len = s.len := rfl
@[simp] theorem State.faulted_cmd : s.faulted.cmd = s.cmd := rfl
@[simp] theorem State.faulted_off : s.faulted.off = s.off := rfl
@[simp] theorem State.faulted_val : s.faulted.val = s.val := rfl
@[simp] theorem State.faulted_tin : s.faulted.tin = s.tin := rfl
@[simp] theorem State.faulted_bin : s.faulted.bin = s.bin := rfl
@[simp] theorem State.faulted_csp : s.faulted.csp = s.csp := rfl
@[simp] theorem State.faulted_script : s.faulted.script = s.script := rfl
@[simp] theorem State.faulted_undef : s.faulted.undef = true := rfl
@[simp] theorem State.faulted_draws : s.faulted.draws = s.draws + 1 := rfl

end Sys2Proof.Machine
end

