-- ==== Sys2Proof/Laws/Ops.lean ====
section
/-! SUPPORT. Laws/Ops.lean: for each shared operation, one lemma that says everything it can do. -/

namespace Sys2Proof.Machine

/-! ## Operands -/

@[simp] theorem readOperand_noValue {α : Type} (n : OperandName) (s : State) :
    readOperand n (OperandReg.noValue : OperandReg α) s = .error (s.undefinedOutcome (.unwritten n)) := rfl

@[simp] theorem readOperand_holds {α : Type} (n : OperandName) (v : α) (s : State) : readOperand n (.holds v) s = .ok v := rfl

@[simp] theorem readIf_false {α : Type} (n : OperandName) (r : OperandReg α) (s : State) : readIf false n r s = .ok none := rfl

@[simp] theorem readIf_noValue {α : Type} (n : OperandName) (s : State) :
    readIf true n (OperandReg.noValue : OperandReg α) s = .error (s.undefinedOutcome (.unwritten n)) := rfl

@[simp] theorem readIf_holds {α : Type} (n : OperandName) (v : α) (s : State) : readIf true n (.holds v) s = .ok (some v) := rfl

/-- A read operand is the register's value; the only other answer is `undefined`, for a register never written. -/
theorem readOperand_cases {α : Type} (n : OperandName) (r : OperandReg α) (s : State) :
    (r = .noValue ∧ readOperand n r s = .error (s.undefinedOutcome (.unwritten n))) ∨
      ∃ v, r = .holds v ∧ readOperand n r s = .ok v := by
  cases r with
  | noValue => exact .inl ⟨rfl, rfl⟩
  | holds v => exact .inr ⟨v, rfl, rfl⟩

/-- An operand that the command word may leave out: absent, `undefined` because never written, or the register's value. -/
theorem readIf_cases {α : Type} (p : Bool) (n : OperandName) (r : OperandReg α) (s : State) :
    (p = false ∧ readIf p n r s = .ok none) ∨
      (p = true ∧ r = .noValue ∧ readIf p n r s = .error (s.undefinedOutcome (.unwritten n))) ∨
      ∃ v, p = true ∧ r = .holds v ∧ readIf p n r s = .ok (some v) := by
  cases p with
  | false => exact .inl ⟨rfl, rfl⟩
  | true =>
    cases r with
    | noValue => exact .inr (.inl ⟨rfl, rfl, rfl⟩)
    | holds v => exact .inr (.inr ⟨v, rfl, rfl, rfl⟩)

/-! ## The checks -/

/-- `read_check`: the offset, `undefined` for an OFF never written, or the end of a read at a bad offset. -/
theorem readCheck_cases (n : Nat) (c : Ctl) (s : State) :
    (∃ o, c.ov = true ∧ s.off = .holds o ∧ o + n ≤ s.len ∧ readCheck n c s = .ok o) ∨
      (c.ov = true ∧ s.off = .noValue ∧ readCheck n c s = .error (s.undefinedOutcome (.unwritten .off))) ∨
      (c.ov = false ∧ readCheck n c s = .error (.next (if c.a then s.raise .none .typeError else s.drawnResult))) ∨
      ∃ o, c.ov = true ∧ s.off = .holds o ∧ s.len < o + n ∧
        readCheck n c s = .error (.next (if c.a then s.raise .none .rangeError else s.drawnResult)) := by
  rcases readIf_cases c.ov .off s.off s with ⟨hv, h⟩ | ⟨hv, ho, h⟩ | ⟨o, hv, ho, h⟩
  · exact .inr (.inr (.inl ⟨hv, by simp only [readCheck, offsetOperand, h]⟩))
  · exact .inr (.inl ⟨hv, ho, by simp only [readCheck, offsetOperand, h]⟩)
  · by_cases hb : o + n ≤ s.len
    · exact .inl ⟨o, hv, ho, hb, by simp only [readCheck, offsetOperand, h, if_pos hb]⟩
    · exact .inr (.inr (.inr ⟨o, hv, ho, by omega, by simp only [readCheck, offsetOperand, h, if_neg hb]⟩))

/-- `write_check` at a good offset with a value present: the judgement of the value decides. -/
theorem writeCheck_good {α : Type} {n : Nat} {judge : Bits64 → Except ErrorKind α} {c : Ctl} {s : State} {o : Nat} {b : Bits64}
    (hov : c.ov = true) (hvv : c.vv = true) (ho : s.off = .holds o) (hb : s.val = .holds b) (hl : o + n ≤ s.len) :
    writeCheck n judge c s =
      match judge b with
      | .error e => .error (.next (if c.a then s.raise .none e else s.drawnBytes o n))
      | .ok x => .ok (o, x) := by
  simp only [writeCheck, offsetOperand, valueOperand, hov, hvv, ho, hb, readIf_holds]
  cases c.a <;> simp only [checkedWrite, uncheckedWrite, if_pos hl] <;> cases judge b <;> rfl

/-- `write_check` whose operands are written, with the offset or the value absent or the offset out of bounds. -/
theorem writeCheck_bad {α : Type} {n : Nat} {judge : Bits64 → Except ErrorKind α} {c : Ctl} {s : State}
    (ho : c.ov = true → s.off ≠ .noValue) (hv : c.vv = true → s.val ≠ .noValue)
    (hbad : c.ov = false ∨ c.vv = false ∨ ∃ o, s.off = .holds o ∧ s.len < o + n) :
    writeCheck n judge c s = .error (
      if c.ov = false then
        if c.a then .next (s.raise .none .typeError) else s.undefinedOutcome .offsetAbsent
      else
        match s.off with
        | .noValue => s.undefinedOutcome .offsetAbsent
        | .holds o =>
          if c.a then
            .next (s.raise .none (if c.vv then .rangeError else .typeError))
          else if o + n ≤ s.len then .next (s.drawnBytes o n) else s.undefinedOutcome .offsetOutOfBounds) := by
  rcases readIf_cases c.ov .off s.off s with ⟨h1, h⟩ | ⟨h1, h2, h⟩ | ⟨o, h1, h2, h⟩
  · have hw : writeCheck n judge c s = .error (if c.a then .next (s.raise .none .typeError) else s.undefinedOutcome .offsetAbsent) := by
      rcases readIf_cases c.vv .val s.val s with ⟨g1, g⟩ | ⟨g1, g2, g⟩ | ⟨b, g1, g2, g⟩
      · simp only [writeCheck, offsetOperand, valueOperand, h, g]
        cases c.a <;> rfl
      · exact absurd g2 (hv g1)
      · simp only [writeCheck, offsetOperand, valueOperand, h, g]
        cases c.a <;> rfl
    rw [hw, if_pos h1]
  · exact absurd h2 (ho h1)
  · rw [if_neg (by simp [h1]), h2]
    dsimp only
    rcases readIf_cases c.vv .val s.val s with ⟨g1, g⟩ | ⟨g1, g2, g⟩ | ⟨b, g1, g2, g⟩
    · simp only [writeCheck, offsetOperand, valueOperand, h, g]
      cases c.a
      · simp only [uncheckedWrite, Bool.false_eq_true, if_false]
        split <;> rfl
      · simp only [checkedWrite, if_true, g1, Bool.false_eq_true, if_false]
    · exact absurd g2 (hv g1)
    · have hl : ¬ o + n ≤ s.len := by
        rcases hbad with hh | hh | ⟨o', hh, hh'⟩
        · simp [h1] at hh
        · simp [g1] at hh
        · rw [h2] at hh
          cases hh
          omega
      simp only [writeCheck, offsetOperand, valueOperand, h, g]
      cases c.a
      · simp only [uncheckedWrite, Bool.false_eq_true, if_false, if_neg hl]
      · simp only [checkedWrite, if_true, g1, if_neg hl]

/-- `write_check` that reads an operand register never written is `undefined`. -/
theorem writeCheck_unwritten {α : Type} {n : Nat} {judge : Bits64 → Except ErrorKind α} {c : Ctl} {s : State}
    (h : (c.ov = true ∧ s.off = .noValue) ∨ (c.vv = true ∧ s.val = .noValue)) :
    ∃ r, writeCheck n judge c s = .error (s.undefinedOutcome (.unwritten r)) := by
  rcases h with ⟨h1, h2⟩ | ⟨h1, h2⟩
  · exact ⟨.off, by simp only [writeCheck, offsetOperand, h1, h2, readIf_noValue]⟩
  · rcases readIf_cases c.ov .off s.off s with ⟨_, h⟩ | ⟨_, _, h⟩ | ⟨o, _, _, h⟩
    · exact ⟨.val, by simp only [writeCheck, offsetOperand, valueOperand, h, h1, h2, readIf_noValue]⟩
    · exact ⟨.off, by simp only [writeCheck, offsetOperand, h]⟩
    · exact ⟨.val, by simp only [writeCheck, offsetOperand, valueOperand, h, h1, h2, readIf_noValue]⟩

/-- Everything `write_check` can answer: the offset and the judged value; `undefined`; an error; or drawn bytes. -/
theorem writeCheck_cases {α : Type} (n : Nat) (judge : Bits64 → Except ErrorKind α) (c : Ctl) (s : State) :
    (∃ o b x, c.ov = true ∧ c.vv = true ∧ s.off = .holds o ∧ s.val = .holds b ∧ o + n ≤ s.len ∧ judge b = .ok x ∧
      writeCheck n judge c s = .ok (o, x)) ∨
    (∃ why, ((c.ov = true ∧ s.off = .noValue) ∨ (c.vv = true ∧ s.val = .noValue) ∨
        (c.a = false ∧ (c.ov = false ∨ ∃ o, s.off = .holds o ∧ s.len < o + n))) ∧
      writeCheck n judge c s = .error (s.undefinedOutcome why)) ∨
    (∃ e, c.a = true ∧ (e = .typeError ∨ e = .rangeError ∨ ∃ b, judge b = .error e) ∧
      writeCheck n judge c s = .error (.next (s.raise .none e))) ∨
    ∃ o, c.a = false ∧ c.ov = true ∧ s.off = .holds o ∧ o + n ≤ s.len ∧
      writeCheck n judge c s = .error (.next (s.drawnBytes o n)) := by
  by_cases hu : (c.ov = true ∧ s.off = .noValue) ∨ (c.vv = true ∧ s.val = .noValue)
  · obtain ⟨r, h⟩ := writeCheck_unwritten (n := n) (judge := judge) hu
    exact .inr (.inl ⟨_, hu.elim (fun h => .inl h) (fun h => .inr (.inl h)), h⟩)
  · rw [not_or, not_and, not_and] at hu
    by_cases hbad : c.ov = false ∨ c.vv = false ∨ ∃ o, s.off = .holds o ∧ s.len < o + n
    · have h := writeCheck_bad (judge := judge) hu.1 hu.2 hbad
      by_cases hov : c.ov = false
      · rw [if_pos hov] at h
        cases ha : c.a
        · exact .inr (.inl ⟨_, .inr (.inr ⟨rfl, .inl hov⟩), by simpa [ha] using h⟩)
        · exact .inr (.inr (.inl ⟨.typeError, rfl, .inl rfl, by simpa [ha] using h⟩))
      · rw [if_neg hov] at h
        rw [Bool.not_eq_false] at hov
        cases ho : s.off with
        | noValue => exact absurd ho (hu.1 hov)
        | holds o =>
          simp only [ho] at h
          cases ha : c.a
          · by_cases hl : o + n ≤ s.len
            · exact .inr (.inr (.inr ⟨o, rfl, hov, rfl, hl, by simpa [ha, hl] using h⟩))
            · exact .inr (.inl ⟨_, .inr (.inr ⟨rfl, .inr ⟨o, rfl, by omega⟩⟩), by simpa [ha, hl] using h⟩)
          · refine .inr (.inr (.inl ⟨_, rfl, ?_, by simpa [ha] using h⟩))
            cases c.vv <;> simp
    · simp only [not_or, Bool.not_eq_false, not_exists, not_and, not_lt] at hbad
      obtain ⟨hov, hvv, hl⟩ := hbad
      cases ho : s.off with
      | noValue => exact absurd ho (hu.1 hov)
      | holds o =>
        cases hb : s.val with
        | noValue => exact absurd hb (hu.2 hvv)
        | holds b =>
          have h := writeCheck_good (judge := judge) hov hvv ho hb (hl o ho)
          cases hj : judge b with
          | ok x => exact .inl ⟨o, b, x, hov, hvv, rfl, rfl, hl o ho, hj, by rw [h, hj]⟩
          | error e =>
            rw [hj] at h
            cases ha : c.a
            · exact .inr (.inr (.inr ⟨o, rfl, hov, rfl, hl o ho, by simpa [ha] using h⟩))
            · exact .inr (.inr (.inl ⟨e, rfl, .inr (.inr ⟨b, hj⟩), by simpa [ha] using h⟩))

/-! ## The shared shapes of the commands -/

/-- A numeric read that completes: the number read and STATUS 0, or the end of a read at a bad offset. -/
def ReadOutcome (n : Nat) (c : Ctl) (s t : State) : Prop :=
  (∃ r d, t = { s with result := r, status := 0, draws := d }) ∨
    (c.a = true ∧ (t = s.raise .none .typeError ∨ t = s.raise .none .rangeError)) ∧
      (c.ov = false ∨ ∃ o, s.off = .holds o ∧ s.len < o + n)

/-- A numeric write that completes: `n` bytes at the offset and STATUS 0, or one of the errors of its checks. -/
def WriteOutcome {α : Type} (n : Nat) (judge : Bits64 → Except ErrorKind α) (c : Ctl) (s t : State) : Prop :=
  (∃ o bs d, c.ov = true ∧ s.off = .holds o ∧ o + n ≤ s.len ∧ bs.length = n ∧
    t = { s with buf := s.buf.writeBytes o bs, status := 0, draws := d }) ∨
  ∃ e, c.a = true ∧ (e = .typeError ∨ e = .rangeError ∨ ∃ b, judge b = .error e) ∧ t = s.raise .none e

/-- The errors of the value check of an integer write. -/
theorem judgeInt_error {min max : Int} {b : Bits64} {e : ErrorKind} (h : judgeInt min max b = .error e) :
    e = .rangeError ∨ e = .fractionalValueError := by
  unfold judgeInt at h
  dsimp only at h
  repeat' split at h
  all_goals cases h <;> simp

/-- The error of the value check of a float write. -/
theorem judgeFloat_error {m : Nat} {b : Bits64} {e : ErrorKind} (h : judgeFloat m b = .error e) : e = .rangeError := by
  unfold judgeFloat at h
  repeat' split at h
  all_goals cases h
  rfl

theorem setResult_done_eq (r : Bits64) (s : State) :
    (s.setResult r).done = { s with result := r, status := 0, draws := s.draws } := rfl

theorem drawnResult_eq (s : State) :
    s.drawnResult = { s with result := Config.drawResult s.draws, status := 0, draws := s.draws + 1 } := rfl

theorem drawnBytes_eq (s : State) (o n : Nat) :
    s.drawnBytes o n =
      { s with buf := s.buf.writeBytes o (drawnByteList s.draws n), status := 0, draws := s.draws + 1 } := rfl

@[simp] theorem length_drawnByteList (k n : Nat) : (drawnByteList k n).length = n := by simp [drawnByteList]

@[simp] theorem length_leBytes (n x : Nat) : (leBytes n x).length = n := by
  induction n generalizing x with
  | zero => rfl
  | succ n ih => rw [leBytes, List.length_cons, ih]

@[simp] theorem Endian.length_bytes (e : Endian) (n x : Nat) : (e.bytes n x).length = n := by
  cases e <;> simp [Endian.bytes]

/-- A read check that ends the command with a next state. -/
theorem readCheck_error_next {n : Nat} {c : Ctl} {s t : State} (h : readCheck n c s = .error (.next t)) :
    ReadOutcome n c s t := by
  rcases readCheck_cases n c s with ⟨o, _, _, _, h'⟩ | ⟨_, _, h'⟩ | ⟨hov, h'⟩ | ⟨o, hov, ho, hl, h'⟩
  · rw [h'] at h; cases h
  · rw [h'] at h; cases h
  · rw [h'] at h
    cases h
    cases ha : c.a
    · exact .inl ⟨_, _, drawnResult_eq s⟩
    · exact .inr ⟨⟨ha, .inl rfl⟩, .inl hov⟩
  · rw [h'] at h
    cases h
    cases ha : c.a
    · exact .inl ⟨_, _, drawnResult_eq s⟩
    · exact .inr ⟨⟨ha, .inr rfl⟩, .inr ⟨o, ho, hl⟩⟩

/-- A write check that ends the command with a next state. -/
theorem writeCheck_error_next {α : Type} {n : Nat} {judge : Bits64 → Except ErrorKind α} {c : Ctl} {s t : State}
    (h : writeCheck n judge c s = .error (.next t)) : WriteOutcome n judge c s t := by
  rcases writeCheck_cases n judge c s with ⟨_, _, _, _, _, _, _, _, _, h'⟩ | ⟨_, _, h'⟩ | ⟨e, ha, he, h'⟩ | ⟨o, ha, hov, ho, hl, h'⟩
  · rw [h'] at h; cases h
  · rw [h'] at h; cases h
  · rw [h'] at h
    cases h
    exact .inr ⟨e, ha, he, rfl⟩
  · rw [h'] at h
    cases h
    exact .inl ⟨o, _, _, hov, ho, hl, length_drawnByteList _ _, drawnBytes_eq s o n⟩

theorem readInt_next {ty : IntType} {e : Endian} {c : Ctl} {s t : State} (h : readInt ty e c s = .next t) :
    ReadOutcome ty.bytes c s t := by
  unfold readInt at h
  split at h
  · subst h
    exact readCheck_error_next (by assumption)
  · injection h with h
    exact .inl ⟨_, _, h.symm.trans (setResult_done_eq _ s)⟩

theorem readF32_next {e : Endian} {c : Ctl} {s t : State} (h : readF32 e c s = .next t) : ReadOutcome 4 c s t := by
  unfold readF32 at h
  split at h
  · subst h
    exact readCheck_error_next (by assumption)
  · cases h
    unfold State.drewIf
    split
    · exact .inl ⟨_, s.draws + 1, rfl⟩
    · exact .inl ⟨_, s.draws, rfl⟩

theorem readF64_next {e : Endian} {c : Ctl} {s t : State} (h : readF64 e c s = .next t) : ReadOutcome 8 c s t := by
  unfold readF64 at h
  split at h
  · subst h
    exact readCheck_error_next (by assumption)
  · cases h
    unfold State.drewIf
    split
    · exact .inl ⟨_, s.draws + 1, rfl⟩
    · exact .inl ⟨_, s.draws, rfl⟩

theorem writeInt_next {ty : IntType} {e : Endian} {c : Ctl} {s t : State} (h : writeInt ty e c s = .next t) :
    WriteOutcome ty.bytes (judgeInt ty.min ty.max) c s t := by
  unfold writeInt writeCheckInt at h
  rcases writeCheck_cases ty.bytes (judgeInt ty.min ty.max) c s with
    ⟨o, b, x, hov, _, ho, _, hl, _, h'⟩ | ⟨_, _, h'⟩ | ⟨e, ha, _, h'⟩ | ⟨o, ha, hov, ho, hl, h'⟩
  · rw [h'] at h
    cases h
    exact .inl ⟨o, _, _, hov, ho, hl, Endian.length_bytes e _ _, rfl⟩
  · rw [h'] at h; cases h
  all_goals
    rw [h'] at h
    cases h
    exact writeCheck_error_next h'

theorem writeF32_next {e : Endian} {c : Ctl} {s t : State} (h : writeF32 e c s = .next t) : WriteOutcome 4 (judgeFloat maxF32Units) c s t := by
  unfold writeF32 writeCheckFloat at h
  rcases writeCheck_cases 4 (judgeFloat maxF32Units) c s with
    ⟨o, b, x, hov, _, ho, _, hl, _, h'⟩ | ⟨_, _, h'⟩ | ⟨e, ha, _, h'⟩ | ⟨o, ha, hov, ho, hl, h'⟩
  · rw [h'] at h
    cases h
    unfold State.drewIf
    split
    · exact .inl ⟨o, _, s.draws + 1, hov, ho, hl, Endian.length_bytes e _ _, rfl⟩
    · exact .inl ⟨o, _, s.draws, hov, ho, hl, Endian.length_bytes e _ _, rfl⟩
  · rw [h'] at h; cases h
  all_goals
    rw [h'] at h
    cases h
    exact writeCheck_error_next h'

theorem writeF64_next {e : Endian} {c : Ctl} {s t : State} (h : writeF64 e c s = .next t) : WriteOutcome 8 (judgeFloat maxF64Units) c s t := by
  unfold writeF64 writeCheckFloat at h
  rcases writeCheck_cases 8 (judgeFloat maxF64Units) c s with
    ⟨o, b, x, hov, _, ho, _, hl, _, h'⟩ | ⟨_, _, h'⟩ | ⟨e, ha, _, h'⟩ | ⟨o, ha, hov, ho, hl, h'⟩
  · rw [h'] at h
    cases h
    unfold State.drewIf
    split
    · exact .inl ⟨o, _, s.draws + 1, hov, ho, hl, Endian.length_bytes e _ _, rfl⟩
    · exact .inl ⟨o, _, s.draws, hov, ho, hl, Endian.length_bytes e _ _, rfl⟩
  · rw [h'] at h; cases h
  all_goals
    rw [h'] at h
    cases h
    exact writeCheck_error_next h'

/-- A text-to-bytes command that completes: the codec's bytes and STATUS 0, or its error and an empty BOUT. -/
theorem textToBytes_next {codec : List CodePoint → Except ErrorKind (List Byte)} {s u : State}
    (h : textToBytes codec s = .next u) :
    ∃ t, s.tin = .holds t ∧ ((∃ bs, codec t = .ok bs ∧ u = { s with bout := bs, status := 0 }) ∨
      ∃ e, codec t = .error e ∧ u = s.raise .bout e) := by
  unfold textToBytes textOperand at h
  rcases readOperand_cases .tin s.tin s with ⟨_, h'⟩ | ⟨t, ht, h'⟩
  · rw [h'] at h; cases h
  · rw [h'] at h
    dsimp only at h
    refine ⟨t, ht, ?_⟩
    split at h
    · cases h
      exact .inl ⟨_, by assumption, rfl⟩
    · cases h
      exact .inr ⟨_, by assumption, rfl⟩

/-- A bytes-to-text command that completes: the codec's text and STATUS 0. -/
theorem bytesToText_next {codec : List Byte → List CodePoint} {s u : State} (h : bytesToText codec s = .next u) :
    ∃ bs, s.bin = .holds bs ∧ u = { s with tout := codec bs, status := 0 } := by
  unfold bytesToText bytesOperand at h
  rcases readOperand_cases .bin s.bin s with ⟨_, h'⟩ | ⟨bs, hb, h'⟩
  · rw [h'] at h; cases h
  · rw [h'] at h
    cases h
    exact ⟨bs, hb, rfl⟩

/-- U8DEC that completes: the decoded code points, perhaps with a drawn tail, and STATUS 0. -/
theorem execU8dec_next {c : Ctl} {s u : State} (h : execU8dec c s = .next u) :
    ∃ bs t d, s.bin = .holds bs ∧ u = { s with tout := t, status := 0, draws := d } := by
  unfold execU8dec bytesOperand at h
  rcases readOperand_cases .bin s.bin s with ⟨_, h'⟩ | ⟨bs, hb, h'⟩
  · rw [h'] at h; cases h
  · rw [h'] at h
    dsimp only at h
    split at h
    · cases h
      exact ⟨bs, _, _, hb, rfl⟩
    · cases h
      exact ⟨bs, _, _, hb, rfl⟩

/-- ENCSEL that completes: the code and STATUS 0, or UnsupportedEncoding. -/
theorem execEncsel_next {c : Ctl} {s u : State} (h : execEncsel c s = .next u) :
    (∃ r, u = { s with result := r, status := 0 }) ∨ u = s.raise .none .unsupportedEncoding := by
  unfold execEncsel at h
  split at h
  · rename_i h'
    unfold nameOperand at h'
    rcases readIf_cases c.tv .tin s.tin s with ⟨_, g⟩ | ⟨_, _, g⟩ | ⟨_, _, _, g⟩ <;> rw [g] at h' <;> cases h'
    cases h
  · rename_i name _
    split at h
    · injection h with h
      exact .inl ⟨_, h.symm.trans (setResult_done_eq _ s)⟩
    · rename_i e he
      have : e = .unsupportedEncoding := by
        unfold encodingCode at he
        repeat' split at he
        all_goals cases he
        rfl
      subst this
      cases h
      exact .inr rfl

/-! ## Ends in a fault -/

/-- The only fault a command answers is `undefined`, with the faulted state of the state it started from (60_exceptions R214). -/
def FaultsAs (s : State) (r : Result) : Prop := ∀ f, r = .fault f → ∃ why, f = .undefinedOutcome why s.faulted

theorem faultsAs_next (s t : State) : FaultsAs s (.next t) := fun _ h => by cases h

theorem faultsAs_undefined (s : State) (why : UndefinedCase) : FaultsAs s (s.undefinedOutcome why) :=
  fun _ h => ⟨why, by cases h; rfl⟩

theorem readCheck_faultsAs {n : Nat} {c : Ctl} {s : State} {r : Result} (h : readCheck n c s = .error r) : FaultsAs s r := by
  rcases readCheck_cases n c s with ⟨o, _, _, _, h'⟩ | ⟨_, _, h'⟩ | ⟨_, h'⟩ | ⟨o, _, _, _, h'⟩ <;> rw [h'] at h <;> cases h
  · exact faultsAs_undefined s _
  · exact faultsAs_next s _
  · exact faultsAs_next s _

theorem writeCheck_faultsAs {α : Type} {n : Nat} {judge : Bits64 → Except ErrorKind α} {c : Ctl} {s : State} {r : Result}
    (h : writeCheck n judge c s = .error r) : FaultsAs s r := by
  rcases writeCheck_cases n judge c s with ⟨_, _, _, _, _, _, _, _, _, h'⟩ | ⟨_, _, h'⟩ | ⟨_, _, _, h'⟩ | ⟨_, _, _, _, _, h'⟩ <;>
    rw [h'] at h <;> cases h
  · exact faultsAs_undefined s _
  · exact faultsAs_next s _
  · exact faultsAs_next s _

theorem readInt_faultsAs (ty : IntType) (e : Endian) (c : Ctl) (s : State) : FaultsAs s (readInt ty e c s) := by
  unfold readInt
  split
  · exact readCheck_faultsAs (by assumption)
  · exact faultsAs_next s _

theorem readF32_faultsAs (e : Endian) (c : Ctl) (s : State) : FaultsAs s (readF32 e c s) := by
  unfold readF32
  split
  · exact readCheck_faultsAs (by assumption)
  · exact faultsAs_next s _

theorem readF64_faultsAs (e : Endian) (c : Ctl) (s : State) : FaultsAs s (readF64 e c s) := by
  unfold readF64
  split
  · exact readCheck_faultsAs (by assumption)
  · exact faultsAs_next s _

theorem writeInt_faultsAs (ty : IntType) (e : Endian) (c : Ctl) (s : State) : FaultsAs s (writeInt ty e c s) := by
  unfold writeInt writeCheckInt
  split
  · exact writeCheck_faultsAs (by assumption)
  · exact faultsAs_next s _

theorem writeF32_faultsAs (e : Endian) (c : Ctl) (s : State) : FaultsAs s (writeF32 e c s) := by
  unfold writeF32 writeCheckFloat
  split
  · exact writeCheck_faultsAs (by assumption)
  · exact faultsAs_next s _

theorem writeF64_faultsAs (e : Endian) (c : Ctl) (s : State) : FaultsAs s (writeF64 e c s) := by
  unfold writeF64 writeCheckFloat
  split
  · exact writeCheck_faultsAs (by assumption)
  · exact faultsAs_next s _

theorem textToBytes_faultsAs (codec : List CodePoint → Except ErrorKind (List Byte)) (s : State) :
    FaultsAs s (textToBytes codec s) := by
  unfold textToBytes textOperand
  rcases readOperand_cases .tin s.tin s with ⟨_, h⟩ | ⟨t, _, h⟩ <;> rw [h] <;> dsimp only
  · exact faultsAs_undefined s _
  · split <;> exact faultsAs_next s _

theorem bytesToText_faultsAs (codec : List Byte → List CodePoint) (s : State) : FaultsAs s (bytesToText codec s) := by
  unfold bytesToText bytesOperand
  rcases readOperand_cases .bin s.bin s with ⟨_, h⟩ | ⟨bs, _, h⟩ <;> rw [h]
  · exact faultsAs_undefined s _
  · exact faultsAs_next s _

theorem execU8dec_faultsAs (c : Ctl) (s : State) : FaultsAs s (execU8dec c s) := by
  unfold execU8dec bytesOperand
  rcases readOperand_cases .bin s.bin s with ⟨_, h⟩ | ⟨bs, _, h⟩ <;> rw [h] <;> dsimp only
  · exact faultsAs_undefined s _
  · split <;> exact faultsAs_next s _

theorem execEncsel_faultsAs (c : Ctl) (s : State) : FaultsAs s (execEncsel c s) := by
  unfold execEncsel nameOperand
  rcases readIf_cases c.tv .tin s.tin s with ⟨_, h⟩ | ⟨_, _, h⟩ | ⟨t, _, _, h⟩ <;> rw [h] <;> dsimp only
  · split <;> exact faultsAs_next s _
  · exact faultsAs_undefined s _
  · split <;> exact faultsAs_next s _

end Sys2Proof.Machine
end

