-- ==== Sys2Proof/Laws/Exec.lean ====
section
/-! SUPPORT. Laws/Exec.lean: everything a command that completes can do, by its class (30_encoding R61). -/

namespace Sys2Proof.Machine

/-- B64DEC's errors. -/
theorem b64Decode_error {t : List CodePoint} {e : ErrorKind} (h : b64Decode t = .error e) :
    e = .malformedInput ∨ e = .illegalCharacter := by
  unfold b64Decode at h
  dsimp only at h
  repeat' split at h
  all_goals cases h <;> simp

theorem hexPairs_error : ∀ {t : List CodePoint} {e : ErrorKind}, hexPairs t = .error e → e = .malformedInput
  | [], e, h => by simp [hexPairs] at h
  | [x], e, h => by simpa [hexPairs] using h.symm
  | x :: y :: r, e, h => by
    unfold hexPairs at h
    split at h
    · cases hr : hexPairs r with
      | error e' =>
        rw [hr] at h
        cases h
        exact hexPairs_error hr
      | ok v =>
        rw [hr] at h
        cases h
    · cases h
      rfl

/-- HEXDEC's only error. -/
theorem hexDecode_error {t : List CodePoint} {e : ErrorKind} (h : hexDecode t = .error e) : e = .malformedInput := by
  unfold hexDecode at h
  split at h
  · cases h
    rfl
  · exact hexPairs_error h

/-- What the next state of a command is made of, by the command's class. -/
inductive CompletesAs (i : Instr) (s t : State) : Prop
  | length (hc : commandClass i = .lengthClass) (r : Bits64) (h : t = { s with result := r, status := 0 })
  | encsel (hc : commandClass i = .encselClass) (hs : statusCodes i = [0, 2])
      (h : (∃ r, t = { s with result := r, status := 0 }) ∨ t = s.raise .none .unsupportedEncoding)
  | textToBytes (hc : commandClass i = .textToBytes)
      (h : (∃ bs, t = { s with bout := bs, status := 0 }) ∨
        ∃ e : ErrorKind, e.code ∈ statusCodes i ∧ t = s.raise .bout e)
  | bytesToText (hc : commandClass i = .bytesToText) (x : List CodePoint) (d : Nat)
      (h : t = { s with tout := x, status := 0, draws := d })
  | read (n : Nat) (hc : commandClass i = .numericRead n) (h : ReadOutcome n i.ctl s t)
  | writeInt (n : Nat) (lo hi : Int) (hc : commandClass i = .numericWrite n) (hr : intWriteRange i = some (n, lo, hi))
      (h : WriteOutcome n (judgeInt lo hi) i.ctl s t)
  | writeFloat (n m : Nat) (hc : commandClass i = .numericWrite n) (hr : intWriteRange i = none)
      (h : WriteOutcome n (judgeFloat m) i.ctl s t)

/-- Everything a command that completes can do. -/
theorem exec_next {i : Instr} {s t : State} (h : exec i s = .next t) : CompletesAs i s t := by
  cases i <;> simp only [exec] at h
  case length c => injection h with h; exact .length rfl _ (h.symm.trans (setResult_done_eq _ s))
  case encsel c => exact .encsel rfl rfl (execEncsel_next h)
  case b64dec c =>
    obtain ⟨x, _, ⟨bs, _, e⟩ | ⟨e', he, e⟩⟩ := textToBytes_next h
    · exact .textToBytes rfl (.inl ⟨bs, e⟩)
    · exact .textToBytes rfl (.inr ⟨e', by rcases b64Decode_error he with rfl | rfl <;> simp [ErrorKind.code, statusCodes], e⟩)
  case hexdec c =>
    obtain ⟨x, _, ⟨bs, _, e⟩ | ⟨e', he, e⟩⟩ := textToBytes_next h
    · exact .textToBytes rfl (.inl ⟨bs, e⟩)
    · exact .textToBytes rfl (.inr ⟨e', by rcases hexDecode_error he with rfl; simp [ErrorKind.code, statusCodes], e⟩)
  case u8enc c =>
    obtain ⟨x, _, ⟨bs, _, e⟩ | ⟨e', he, e⟩⟩ := textToBytes_next h
    · exact .textToBytes rfl (.inl ⟨bs, e⟩)
    · cases he
  case b64enc c => obtain ⟨bs, _, e⟩ := bytesToText_next h; exact .bytesToText rfl _ _ e
  case hexenc c => obtain ⟨bs, _, e⟩ := bytesToText_next h; exact .bytesToText rfl _ _ e
  case u8dec c => obtain ⟨bs, x, d, _, e⟩ := execU8dec_next h; exact .bytesToText rfl _ _ e
  case readU8 => exact .read _ rfl (readInt_next (ty := .u8) h)
  case readI8 => exact .read _ rfl (readInt_next (ty := .i8) h)
  case readU16LE => exact .read _ rfl (readInt_next (ty := .u16) h)
  case readU16BE => exact .read _ rfl (readInt_next (ty := .u16) h)
  case readI16LE => exact .read _ rfl (readInt_next (ty := .i16) h)
  case readI16BE => exact .read _ rfl (readInt_next (ty := .i16) h)
  case readU32LE => exact .read _ rfl (readInt_next (ty := .u32) h)
  case readU32BE => exact .read _ rfl (readInt_next (ty := .u32) h)
  case readI32LE => exact .read _ rfl (readInt_next (ty := .i32) h)
  case readI32BE => exact .read _ rfl (readInt_next (ty := .i32) h)
  case readF32LE => exact .read _ rfl (readF32_next h)
  case readF32BE => exact .read _ rfl (readF32_next h)
  case readF64LE => exact .read _ rfl (readF64_next h)
  case readF64BE => exact .read _ rfl (readF64_next h)
  case writeU8 => exact .writeInt _ _ _ rfl rfl (writeInt_next (ty := .u8) h)
  case writeI8 => exact .writeInt _ _ _ rfl rfl (writeInt_next (ty := .i8) h)
  case writeU16LE => exact .writeInt _ _ _ rfl rfl (writeInt_next (ty := .u16) h)
  case writeU16BE => exact .writeInt _ _ _ rfl rfl (writeInt_next (ty := .u16) h)
  case writeI16LE => exact .writeInt _ _ _ rfl rfl (writeInt_next (ty := .i16) h)
  case writeI16BE => exact .writeInt _ _ _ rfl rfl (writeInt_next (ty := .i16) h)
  case writeU32LE => exact .writeInt _ _ _ rfl rfl (writeInt_next (ty := .u32) h)
  case writeU32BE => exact .writeInt _ _ _ rfl rfl (writeInt_next (ty := .u32) h)
  case writeI32LE => exact .writeInt _ _ _ rfl rfl (writeInt_next (ty := .i32) h)
  case writeI32BE => exact .writeInt _ _ _ rfl rfl (writeInt_next (ty := .i32) h)
  case writeF32LE => exact .writeFloat _ _ rfl rfl (writeF32_next h)
  case writeF32BE => exact .writeFloat _ _ rfl rfl (writeF32_next h)
  case writeF64LE => exact .writeFloat _ _ rfl rfl (writeF64_next h)
  case writeF64BE => exact .writeFloat _ _ rfl rfl (writeF64_next h)

/-- Everything a command that does not complete can do: it ends in `undefined` (60_exceptions R214). -/
theorem exec_faultsAs (i : Instr) (s : State) : FaultsAs s (exec i s) := by
  cases i with
  | length c => exact faultsAs_next s _
  | encsel c => exact execEncsel_faultsAs c s
  | b64dec c | hexdec c => exact textToBytes_faultsAs _ s
  | u8enc c => exact textToBytes_faultsAs (fun t => .ok (u8Encode t)) s
  | b64enc c | hexenc c => exact bytesToText_faultsAs _ s
  | u8dec c => exact execU8dec_faultsAs c s
  | readU8 c | readI8 c | readU16LE c | readU16BE c | readI16LE c | readI16BE c | readU32LE c | readU32BE c | readI32LE c
  | readI32BE c => exact readInt_faultsAs _ _ c s
  | readF32LE c | readF32BE c => exact readF32_faultsAs _ c s
  | readF64LE c | readF64BE c => exact readF64_faultsAs _ c s
  | writeU8 c | writeI8 c | writeU16LE c | writeU16BE c | writeI16LE c | writeI16BE c | writeU32LE c | writeU32BE c | writeI32LE c
  | writeI32BE c => exact writeInt_faultsAs _ _ c s
  | writeF32LE c | writeF32BE c => exact writeF32_faultsAs _ c s
  | writeF64LE c | writeF64BE c => exact writeF64_faultsAs _ c s

end Sys2Proof.Machine
end

