-- ==== Sys2Proof/Laws/Memory.lean ====
section
/-! SUPPORT. Laws/Memory.lean: reading after writing, and the canonical form, for every operation over BUF. -/

namespace Sys2Proof.Machine

/-! ## Reading -/

@[simp] theorem Memory.read_nil (a : Nat) : Memory.read [] a = 0 := rfl

theorem Memory.read_cons_cell (k : Nat) (v : Byte) (m : Memory) (a : Nat) :
    Memory.read ((k, v) :: m) a = if k = a then v else Memory.read m a := rfl

/-- An address below every listed one is not listed. -/
theorem Memory.read_of_wfFrom {lo : Nat} {m : Memory} (h : Memory.wfFrom lo m = true) {a : Nat} (ha : a < lo) :
    m.read a = 0 := by
  induction m generalizing lo with
  | nil => rfl
  | cons cell rest ih =>
    obtain ⟨k, v⟩ := cell
    simp only [Memory.wfFrom, Bool.and_eq_true, decide_eq_true_eq] at h
    rw [Memory.read_cons_cell, if_neg (by omega)]
    exact ih h.2 (by omega)

theorem Memory.read_cons (a : Nat) (b : Byte) (m : Memory) (x : Nat) :
    (Memory.cons a b m).read x = if a = x then (if b = 0 then m.read x else b) else m.read x := by
  unfold Memory.cons Memory.unlisted
  split
  · simp
  · rw [Memory.read_cons_cell]

/-- A write leaves every other address alone, whatever the form of the memory. -/
theorem Memory.read_write_ne (m : Memory) {a x : Nat} (hx : a ≠ x) (b : Byte) : (m.write a b).read x = m.read x := by
  induction m with
  | nil => rw [Memory.write, Memory.read_cons, if_neg hx]
  | cons cell rest ih =>
    obtain ⟨k, v⟩ := cell
    unfold Memory.write
    split
    · rw [Memory.read_cons, if_neg hx]
    · split
      · rename_i hka
        subst hka
        rw [Memory.read_cons, if_neg hx, Memory.read_cons_cell, if_neg hx]
      · rw [Memory.read_cons_cell, Memory.read_cons_cell, ih]

/-- MemWrite leaves every address but its own alone, whatever the form of the memory. -/
theorem Memory.read_writeBytes_outside (m : Memory) (a : Nat) (bs : List Byte) {x : Nat} (hx : x < a ∨ a + bs.length ≤ x) :
    (m.writeBytes a bs).read x = m.read x := by
  induction bs generalizing m a with
  | nil => rfl
  | cons b bs ih =>
    simp only [List.length_cons] at hx
    rw [Memory.writeBytes, ih _ _ (by omega), Memory.read_write_ne _ (by omega)]

/-- What a write does to a read, in a memory in canonical form. -/
theorem Memory.read_write {lo : Nat} {m : Memory} (h : Memory.wfFrom lo m = true) (a : Nat) (b : Byte) (x : Nat) :
    (m.write a b).read x = if a = x then b else m.read x := by
  induction m generalizing lo with
  | nil =>
    rw [Memory.write, Memory.read_cons]
    split <;> simp_all
  | cons cell rest ih =>
    obtain ⟨k, v⟩ := cell
    simp only [Memory.wfFrom, Bool.and_eq_true, decide_eq_true_eq] at h
    have hrest := fun y (hy : y < k + 1) => Memory.read_of_wfFrom h.2 hy
    unfold Memory.write
    split
    · rw [Memory.read_cons, Memory.read_cons_cell]
      by_cases hx : a = x
      · subst hx
        rw [if_neg (show ¬ k = a by omega), hrest a (by omega)]
        split <;> simp_all
      · rw [if_neg hx, if_neg hx]
    · split
      · rename_i hka
        subst hka
        rw [Memory.read_cons, Memory.read_cons_cell]
        by_cases hx : a = x
        · subst hx
          rw [hrest a (by omega)]
          split <;> simp_all
        · rw [if_neg hx, if_neg hx, if_neg hx]
      · rw [Memory.read_cons_cell, Memory.read_cons_cell, ih h.2]
        by_cases hx : a = x
        · rw [if_neg (show ¬ k = x by omega), if_pos hx, if_pos hx]
        · rw [if_neg hx, if_neg hx]

/-! ## The canonical form -/

theorem Memory.wfFrom_mono {lo lo' : Nat} {m : Memory} (h : Memory.wfFrom lo m = true) (hl : lo' ≤ lo) :
    Memory.wfFrom lo' m = true := by
  cases m with
  | nil => rfl
  | cons cell rest =>
    simp only [Memory.wfFrom, Bool.and_eq_true, decide_eq_true_eq] at h ⊢
    exact ⟨⟨by omega, h.1.2⟩, h.2⟩

theorem Memory.wfFrom_cons {lo a : Nat} {m : Memory} (h : Memory.wfFrom (a + 1) m = true) (hl : lo ≤ a) (b : Byte) :
    Memory.wfFrom lo (Memory.cons a b m) = true := by
  unfold Memory.cons
  split
  · exact Memory.wfFrom_mono h (by omega)
  · simp only [Memory.wfFrom, Bool.and_eq_true, decide_eq_true_eq, bne_iff_ne]
    exact ⟨⟨hl, by assumption⟩, h⟩

theorem Memory.wfFrom_write {lo : Nat} {m : Memory} (h : Memory.wfFrom lo m = true) {a : Nat} (hl : lo ≤ a) (b : Byte) :
    Memory.wfFrom lo (m.write a b) = true := by
  induction m generalizing lo with
  | nil => exact Memory.wfFrom_cons rfl hl b
  | cons cell rest ih =>
    obtain ⟨k, v⟩ := cell
    have h' := h
    simp only [Memory.wfFrom, Bool.and_eq_true, decide_eq_true_eq] at h
    unfold Memory.write
    split
    · refine Memory.wfFrom_cons ?_ hl b
      simp only [Memory.wfFrom, Bool.and_eq_true, decide_eq_true_eq]
      exact ⟨⟨by omega, h.1.2⟩, h.2⟩
    · split
      · rename_i hka
        subst hka
        exact Memory.wfFrom_cons h.2 hl b
      · simp only [Memory.wfFrom, Bool.and_eq_true, decide_eq_true_eq]
        exact ⟨h.1, ih h.2 (by omega)⟩

/-- A write keeps the canonical form. -/
theorem Memory.wf_write {m : Memory} (h : m.wf = true) (a : Nat) (b : Byte) : (m.write a b).wf = true :=
  Memory.wfFrom_write h (Nat.zero_le a) b

/-- MemWrite keeps the canonical form. -/
theorem Memory.wf_writeBytes {m : Memory} (h : m.wf = true) (a : Nat) (bs : List Byte) : (m.writeBytes a bs).wf = true := by
  induction bs generalizing m a with
  | nil => exact h
  | cons b bs ih => exact ih (Memory.wf_write h a b) (a + 1)

theorem Memory.wfFrom_ofBytesFrom (a : Nat) (bs : List Byte) : Memory.wfFrom a (Memory.ofBytesFrom a bs) = true := by
  induction bs generalizing a with
  | nil => rfl
  | cons b bs ih => exact Memory.wfFrom_cons (ih (a + 1)) (le_refl a) b

/-- The memory made of a byte list is in canonical form. -/
theorem Memory.wf_ofBytes (bs : List Byte) : (Memory.ofBytes bs).wf = true := Memory.wfFrom_ofBytesFrom 0 bs

/-- The reset state's memory is in canonical form. -/
theorem State.reset_buf_wf : State.reset.buf.wf = true := Memory.wf_ofBytes _

/-- Two memories in canonical form that read alike at every address are equal. -/
theorem Memory.ext_of_read {lo : Nat} {m m' : Memory} (h : Memory.wfFrom lo m = true) (h' : Memory.wfFrom lo m' = true)
    (hr : ∀ a, m.read a = m'.read a) : m = m' := by
  induction m generalizing lo m' with
  | nil =>
    cases m' with
    | nil => rfl
    | cons cell rest =>
      obtain ⟨k, v⟩ := cell
      simp only [Memory.wfFrom, Memory.unlisted, Bool.and_eq_true, decide_eq_true_eq, bne_iff_ne] at h'
      have := hr k
      rw [Memory.read_cons_cell, if_pos rfl] at this
      exact absurd this.symm h'.1.2
  | cons cell rest ih =>
    obtain ⟨k, v⟩ := cell
    simp only [Memory.wfFrom, Memory.unlisted, Bool.and_eq_true, decide_eq_true_eq, bne_iff_ne] at h
    cases m' with
    | nil =>
      have := hr k
      rw [Memory.read_cons_cell, if_pos rfl] at this
      exact absurd this h.1.2
    | cons cell' rest' =>
      obtain ⟨k', v'⟩ := cell'
      simp only [Memory.wfFrom, Memory.unlisted, Bool.and_eq_true, decide_eq_true_eq, bne_iff_ne] at h'
      have hk : k = k' := by
        rcases Nat.lt_trichotomy k k' with hlt | heq | hgt
        · have := hr k
          rw [Memory.read_cons_cell, Memory.read_cons_cell, if_pos rfl, if_neg (by omega),
            Memory.read_of_wfFrom h'.2 (by omega)] at this
          exact absurd this h.1.2
        · exact heq
        · have := hr k'
          rw [Memory.read_cons_cell, Memory.read_cons_cell, if_pos rfl, if_neg (by omega),
            Memory.read_of_wfFrom h.2 (by omega)] at this
          exact absurd this.symm h'.1.2
      subst hk
      have hv : v = v' := by simpa [Memory.read_cons_cell] using hr k
      subst hv
      rw [ih h.2 h'.2]
      intro a
      rcases Nat.lt_or_ge a (k + 1) with ha | ha
      · rw [Memory.read_of_wfFrom h.2 ha, Memory.read_of_wfFrom h'.2 ha]
      · have := hr a
        rwa [Memory.read_cons_cell, Memory.read_cons_cell, if_neg (by omega), if_neg (by omega)] at this

/-! ## LEN -/

theorem Memory.below_cons {n a : Nat} {m : Memory} (h : Memory.below n m = true) (ha : a < n) (b : Byte) :
    Memory.below n (Memory.cons a b m) = true := by
  unfold Memory.cons
  split
  · exact h
  · simpa [Memory.below, ha] using h

/-- A write below LEN lists nothing at or above LEN. -/
theorem Memory.below_write {n a : Nat} {m : Memory} (h : Memory.below n m = true) (ha : a < n) (b : Byte) :
    Memory.below n (m.write a b) = true := by
  induction m with
  | nil => exact Memory.below_cons rfl ha b
  | cons cell rest ih =>
    obtain ⟨k, v⟩ := cell
    have hr : Memory.below n rest = true := by
      simp only [Memory.below, List.all_cons, Bool.and_eq_true] at h
      exact h.2
    unfold Memory.write
    split
    · exact Memory.below_cons h ha b
    · split
      · exact Memory.below_cons hr ha b
      · simp only [Memory.below, List.all_cons, Bool.and_eq_true] at h ⊢
        exact ⟨h.1, ih hr⟩

/-- MemWrite of bytes that all lie below LEN lists nothing at or above LEN. -/
theorem Memory.below_writeBytes {n : Nat} {m : Memory} (h : Memory.below n m = true) {a : Nat} (bs : List Byte)
    (ha : a + bs.length ≤ n) : Memory.below n (m.writeBytes a bs) = true := by
  induction bs generalizing m a with
  | nil => exact h
  | cons b bs ih =>
    simp only [List.length_cons] at ha
    exact ih (Memory.below_write h (by omega) b) (by omega)

theorem Memory.below_ofBytesFrom (a : Nat) (bs : List Byte) :
    Memory.below (a + bs.length) (Memory.ofBytesFrom a bs) = true := by
  induction bs generalizing a with
  | nil => rfl
  | cons b bs ih =>
    have := ih (a + 1)
    rw [List.length_cons, show a + (bs.length + 1) = a + 1 + bs.length by omega]
    exact Memory.below_cons this (by omega) b

end Sys2Proof.Machine
end

