-- ==== Sys2Proof/Laws/PerInstr.lean ====
section
/-! SUPPORT. Laws/PerInstr.lean: for every command, where its word holds its fields (30_encoding R60), and that the word is legal. -/

namespace Sys2Proof

/-- The word's opcode field, the flag bits and the reserved bits, from the way `encode` puts them together. -/
theorem encode_fields (i : Instr) :
    (encode i).extractLsb' 0 8 = i.opcode ∧ ctlOf (encode i) = i.ctl ∧ (encode i).extractLsb' 12 20 = 0#20 := by
  rcases h : i.ctl with ⟨a, ov, vv, tv⟩
  simp only [encode, ctlOf, h]
  generalize i.opcode = op
  refine ⟨?_, ?_, ?_⟩
  · cases a <;> cases ov <;> cases vv <;> cases tv <;> (revert op; decide +kernel)
  · cases a <;> cases ov <;> cases vv <;> cases tv <;> (revert op; decide +kernel)
  · cases a <;> cases ov <;> cases vv <;> cases tv <;> (revert op; decide +kernel)

/-- The word of a command, as a number, is below `2^12` and its low eight bits are the opcode. -/
theorem encode_toNat (i : Instr) : (encode i).toNat < 2 ^ 12 ∧ (encode i).toNat % 2 ^ 8 = i.opcode.toNat := by
  obtain ⟨h1, _, h3⟩ := encode_fields i
  have h1 := congrArg BitVec.toNat h1
  have h3 := congrArg BitVec.toNat h3
  simp only [BitVec.extractLsb'_toNat, Nat.shiftRight_zero, BitVec.toNat_ofNat, Nat.zero_mod] at h1 h3
  refine ⟨?_, h1⟩
  have := (encode i).isLt
  rw [Nat.shiftRight_eq_div_pow, Nat.mod_eq_of_lt (by omega)] at h3
  omega

namespace Laws.Encoding

/-- The word of a command is legal and holds its opcode, its flag bits and zeros in its reserved bits. -/
def Statement (i : Instr) : Prop :=
  legalWord (encode i) = true ∧ (encode i).extractLsb' 0 8 = i.opcode ∧ ctlOf (encode i) = i.ctl ∧
    (encode i).extractLsb' 12 20 = 0#20

/-- A command with a legal opcode has a legal word. -/
theorem of_legalOpcode {i : Instr} (op : BitVec 8) (ho : i.opcode = op) (h : legalOpcode op.toNat = true) : Statement i := by
  subst ho
  refine ⟨?_, encode_fields i⟩
  obtain ⟨h1, h2⟩ := encode_toNat i
  simp only [legalWord, h2, h, h1, decide_true, Bool.and_self]

theorem length (c : Ctl) : Statement (.length c) := of_legalOpcode 0x1 rfl (by decide)
theorem encsel (c : Ctl) : Statement (.encsel c) := of_legalOpcode 0x2 rfl (by decide)
theorem b64dec (c : Ctl) : Statement (.b64dec c) := of_legalOpcode 0x10 rfl (by decide)
theorem b64enc (c : Ctl) : Statement (.b64enc c) := of_legalOpcode 0x11 rfl (by decide)
theorem hexdec (c : Ctl) : Statement (.hexdec c) := of_legalOpcode 0x12 rfl (by decide)
theorem hexenc (c : Ctl) : Statement (.hexenc c) := of_legalOpcode 0x13 rfl (by decide)
theorem u8enc (c : Ctl) : Statement (.u8enc c) := of_legalOpcode 0x14 rfl (by decide)
theorem u8dec (c : Ctl) : Statement (.u8dec c) := of_legalOpcode 0x15 rfl (by decide)
theorem readU8 (c : Ctl) : Statement (.readU8 c) := of_legalOpcode 0x80 rfl (by decide)
theorem readI8 (c : Ctl) : Statement (.readI8 c) := of_legalOpcode 0x88 rfl (by decide)
theorem readU16LE (c : Ctl) : Statement (.readU16LE c) := of_legalOpcode 0x90 rfl (by decide)
theorem readU16BE (c : Ctl) : Statement (.readU16BE c) := of_legalOpcode 0x94 rfl (by decide)
theorem readI16LE (c : Ctl) : Statement (.readI16LE c) := of_legalOpcode 0x98 rfl (by decide)
theorem readI16BE (c : Ctl) : Statement (.readI16BE c) := of_legalOpcode 0x9c rfl (by decide)
theorem readU32LE (c : Ctl) : Statement (.readU32LE c) := of_legalOpcode 0xa0 rfl (by decide)
theorem readU32BE (c : Ctl) : Statement (.readU32BE c) := of_legalOpcode 0xa4 rfl (by decide)
theorem readI32LE (c : Ctl) : Statement (.readI32LE c) := of_legalOpcode 0xa8 rfl (by decide)
theorem readI32BE (c : Ctl) : Statement (.readI32BE c) := of_legalOpcode 0xac rfl (by decide)
theorem readF32LE (c : Ctl) : Statement (.readF32LE c) := of_legalOpcode 0xb0 rfl (by decide)
theorem readF32BE (c : Ctl) : Statement (.readF32BE c) := of_legalOpcode 0xb4 rfl (by decide)
theorem readF64LE (c : Ctl) : Statement (.readF64LE c) := of_legalOpcode 0xb8 rfl (by decide)
theorem readF64BE (c : Ctl) : Statement (.readF64BE c) := of_legalOpcode 0xbc rfl (by decide)
theorem writeU8 (c : Ctl) : Statement (.writeU8 c) := of_legalOpcode 0xc0 rfl (by decide)
theorem writeI8 (c : Ctl) : Statement (.writeI8 c) := of_legalOpcode 0xc8 rfl (by decide)
theorem writeU16LE (c : Ctl) : Statement (.writeU16LE c) := of_legalOpcode 0xd0 rfl (by decide)
theorem writeU16BE (c : Ctl) : Statement (.writeU16BE c) := of_legalOpcode 0xd4 rfl (by decide)
theorem writeI16LE (c : Ctl) : Statement (.writeI16LE c) := of_legalOpcode 0xd8 rfl (by decide)
theorem writeI16BE (c : Ctl) : Statement (.writeI16BE c) := of_legalOpcode 0xdc rfl (by decide)
theorem writeU32LE (c : Ctl) : Statement (.writeU32LE c) := of_legalOpcode 0xe0 rfl (by decide)
theorem writeU32BE (c : Ctl) : Statement (.writeU32BE c) := of_legalOpcode 0xe4 rfl (by decide)
theorem writeI32LE (c : Ctl) : Statement (.writeI32LE c) := of_legalOpcode 0xe8 rfl (by decide)
theorem writeI32BE (c : Ctl) : Statement (.writeI32BE c) := of_legalOpcode 0xec rfl (by decide)
theorem writeF32LE (c : Ctl) : Statement (.writeF32LE c) := of_legalOpcode 0xf0 rfl (by decide)
theorem writeF32BE (c : Ctl) : Statement (.writeF32BE c) := of_legalOpcode 0xf4 rfl (by decide)
theorem writeF64LE (c : Ctl) : Statement (.writeF64LE c) := of_legalOpcode 0xf8 rfl (by decide)
theorem writeF64BE (c : Ctl) : Statement (.writeF64BE c) := of_legalOpcode 0xfc rfl (by decide)

end Laws.Encoding

end Sys2Proof
end

