-- ==== Sys2Proof/Tests/Slice0.lean ====
section
/-! SUPPORT. Tests/Slice0.lean: the decoding of every command's word written out from 30_encoding R60, R63 and R64, the refusals of
WellFormed, one or two steps of every command with the values of the spec's own examples and vectors, and for every statement with
hypotheses a state and operands that meet them. -/

open Sys2Proof Sys2Proof.Machine

namespace Sys2Proof.Tests

-- The kernel evaluates the tests one after another: many at once ask for more threads than the check allows.
set_option Elab.async false


/-- The fields of a command word, most significant first: RSV, the four bits TV VV OV A, OPC (30_encoding R60). -/
def word (flags : BitVec 4) (opc : BitVec 8) : CommandWord := 0b00000000000000000000#20 ++ (flags ++ opc)

/-! ## Decoding: the opcodes bit by bit, from R63's table and R64's fields (class 1, W, T, E, 00) -/

/-- 30_encoding R63. -/
theorem test_decode_block :
    decode (word 0b1111 0b00000001) = .ok (.length ⟨true, true, true, true⟩) ∧
    decode (word 0b1000 0b00000010) = .ok (.encsel ⟨false, false, false, true⟩) := by decide

/-- 30_encoding R63. -/
theorem test_decode_text :
    decode (word 0b0000 0b00010000) = .ok (.b64dec ⟨false, false, false, false⟩) ∧
    decode (word 0b0000 0b00010001) = .ok (.b64enc ⟨false, false, false, false⟩) ∧
    decode (word 0b0000 0b00010010) = .ok (.hexdec ⟨false, false, false, false⟩) ∧
    decode (word 0b0000 0b00010011) = .ok (.hexenc ⟨false, false, false, false⟩) ∧
    decode (word 0b0000 0b00010100) = .ok (.u8enc ⟨false, false, false, false⟩) ∧
    decode (word 0b0000 0b00010101) = .ok (.u8dec ⟨false, false, false, false⟩) := by decide

/-- 30_encoding R64. -/
theorem test_decode_read_integer :
    decode (word 0b0011 (1#1 ++ (0b0#1 ++ (0b000#3 ++ (0b0#1 ++ 0b00#2))))) = .ok (.readU8 ⟨true, true, false, false⟩) ∧
    decode (word 0b0010 (1#1 ++ (0b0#1 ++ (0b001#3 ++ (0b0#1 ++ 0b00#2))))) = .ok (.readI8 ⟨false, true, false, false⟩) ∧
    decode (word 0b0011 (1#1 ++ (0b0#1 ++ (0b010#3 ++ (0b0#1 ++ 0b00#2))))) = .ok (.readU16LE ⟨true, true, false, false⟩) ∧
    decode (word 0b0010 (1#1 ++ (0b0#1 ++ (0b010#3 ++ (0b1#1 ++ 0b00#2))))) = .ok (.readU16BE ⟨false, true, false, false⟩) ∧
    decode (word 0b0011 (1#1 ++ (0b0#1 ++ (0b011#3 ++ (0b0#1 ++ 0b00#2))))) = .ok (.readI16LE ⟨true, true, false, false⟩) ∧
    decode (word 0b0010 (1#1 ++ (0b0#1 ++ (0b011#3 ++ (0b1#1 ++ 0b00#2))))) = .ok (.readI16BE ⟨false, true, false, false⟩) ∧
    decode (word 0b0011 (1#1 ++ (0b0#1 ++ (0b100#3 ++ (0b0#1 ++ 0b00#2))))) = .ok (.readU32LE ⟨true, true, false, false⟩) ∧
    decode (word 0b0010 (1#1 ++ (0b0#1 ++ (0b100#3 ++ (0b1#1 ++ 0b00#2))))) = .ok (.readU32BE ⟨false, true, false, false⟩) ∧
    decode (word 0b0011 (1#1 ++ (0b0#1 ++ (0b101#3 ++ (0b0#1 ++ 0b00#2))))) = .ok (.readI32LE ⟨true, true, false, false⟩) ∧
    decode (word 0b0010 (1#1 ++ (0b0#1 ++ (0b101#3 ++ (0b1#1 ++ 0b00#2))))) = .ok (.readI32BE ⟨false, true, false, false⟩) := by decide

/-- 30_encoding R64. -/
theorem test_decode_read_float :
    decode (word 0b0011 (1#1 ++ (0b0#1 ++ (0b110#3 ++ (0b0#1 ++ 0b00#2))))) = .ok (.readF32LE ⟨true, true, false, false⟩) ∧
    decode (word 0b0010 (1#1 ++ (0b0#1 ++ (0b110#3 ++ (0b1#1 ++ 0b00#2))))) = .ok (.readF32BE ⟨false, true, false, false⟩) ∧
    decode (word 0b0011 (1#1 ++ (0b0#1 ++ (0b111#3 ++ (0b0#1 ++ 0b00#2))))) = .ok (.readF64LE ⟨true, true, false, false⟩) ∧
    decode (word 0b0010 (1#1 ++ (0b0#1 ++ (0b111#3 ++ (0b1#1 ++ 0b00#2))))) = .ok (.readF64BE ⟨false, true, false, false⟩) := by decide

/-- 30_encoding R64. -/
theorem test_decode_write_integer :
    decode (word 0b0111 (1#1 ++ (0b1#1 ++ (0b000#3 ++ (0b0#1 ++ 0b00#2))))) = .ok (.writeU8 ⟨true, true, true, false⟩) ∧
    decode (word 0b0110 (1#1 ++ (0b1#1 ++ (0b001#3 ++ (0b0#1 ++ 0b00#2))))) = .ok (.writeI8 ⟨false, true, true, false⟩) ∧
    decode (word 0b0111 (1#1 ++ (0b1#1 ++ (0b010#3 ++ (0b0#1 ++ 0b00#2))))) = .ok (.writeU16LE ⟨true, true, true, false⟩) ∧
    decode (word 0b0110 (1#1 ++ (0b1#1 ++ (0b010#3 ++ (0b1#1 ++ 0b00#2))))) = .ok (.writeU16BE ⟨false, true, true, false⟩) ∧
    decode (word 0b0111 (1#1 ++ (0b1#1 ++ (0b011#3 ++ (0b0#1 ++ 0b00#2))))) = .ok (.writeI16LE ⟨true, true, true, false⟩) ∧
    decode (word 0b0110 (1#1 ++ (0b1#1 ++ (0b011#3 ++ (0b1#1 ++ 0b00#2))))) = .ok (.writeI16BE ⟨false, true, true, false⟩) ∧
    decode (word 0b0111 (1#1 ++ (0b1#1 ++ (0b100#3 ++ (0b0#1 ++ 0b00#2))))) = .ok (.writeU32LE ⟨true, true, true, false⟩) ∧
    decode (word 0b0110 (1#1 ++ (0b1#1 ++ (0b100#3 ++ (0b1#1 ++ 0b00#2))))) = .ok (.writeU32BE ⟨false, true, true, false⟩) ∧
    decode (word 0b0111 (1#1 ++ (0b1#1 ++ (0b101#3 ++ (0b0#1 ++ 0b00#2))))) = .ok (.writeI32LE ⟨true, true, true, false⟩) ∧
    decode (word 0b0110 (1#1 ++ (0b1#1 ++ (0b101#3 ++ (0b1#1 ++ 0b00#2))))) = .ok (.writeI32BE ⟨false, true, true, false⟩) := by decide

/-- 30_encoding R64. -/
theorem test_decode_write_float :
    decode (word 0b0111 (1#1 ++ (0b1#1 ++ (0b110#3 ++ (0b0#1 ++ 0b00#2))))) = .ok (.writeF32LE ⟨true, true, true, false⟩) ∧
    decode (word 0b0110 (1#1 ++ (0b1#1 ++ (0b110#3 ++ (0b1#1 ++ 0b00#2))))) = .ok (.writeF32BE ⟨false, true, true, false⟩) ∧
    decode (word 0b0111 (1#1 ++ (0b1#1 ++ (0b111#3 ++ (0b0#1 ++ 0b00#2))))) = .ok (.writeF64LE ⟨true, true, true, false⟩) ∧
    decode (word 0b0110 (1#1 ++ (0b1#1 ++ (0b111#3 ++ (0b1#1 ++ 0b00#2))))) = .ok (.writeF64BE ⟨false, true, true, false⟩) := by decide

/-- 30_encoding R68's two examples. -/
theorem test_decode_spec_examples :
    decode 0x000007D4 = .ok (.writeU16BE ⟨true, true, true, false⟩) ∧ decode 0x00000380 = .ok (.readU8 ⟨true, true, false, false⟩) := by
  decide

/-- The host's numbering of a word's bits is the spec's own. -/
theorem test_decodeTableWord : decodeTableWord 32 0x802 = some (.encsel ⟨false, false, false, true⟩) ∧ decodeTableWord 32 0x81 = none := by
  decide

/-! ## Ill-formed terms -/

/-- 30_encoding R66: reserved bits 12 and 31. -/
theorem test_wf_reserved_bits : legalWord 0x00001380 = false ∧ legalWord 0x80000001 = false ∧
    decode 0x00001380 = .error .reservedBits ∧ decode 0x80000001 = .error .reservedBits := by decide

/-- R66: an opcode below 0x80 that R63 does not list. -/
theorem test_wf_unlisted_opcode : legalWord 0x00000016 = false ∧ decode 0x00000016 = .error .unlistedOpcode := by decide

/-- R66: an opcode from 0x80 on whose two low bits are not 0. -/
theorem test_wf_numeric_low_bits : legalWord 0x00000081 = false ∧ decode 0x00000081 = .error .numericLowBits := by decide

/-- R66: the four 1-byte big-endian opcodes. -/
theorem test_wf_one_byte_big_endian : legalWord 0x84 = false ∧ decode 0x84 = .error .oneByteBigEndian ∧
    legalWord 0x8C = false ∧ decode 0x8C = .error .oneByteBigEndian ∧ legalWord 0xC4 = false ∧
    decode 0xC4 = .error .oneByteBigEndian ∧ legalWord 0xCC = false ∧ decode 0xCC = .error .oneByteBigEndian := by decide

/-- 00_scope R5: ADDR_W at least 1, LEN at most 2^53 - 1 and at most 2^ADDR_W - 1. -/
theorem test_wf_params : paramsWf ⟨0, .away, .keepSign⟩ 0 = false ∧ paramsWf ⟨60, .away, .keepSign⟩ (2 ^ 53) = false ∧
    paramsWf ⟨8, .away, .keepSign⟩ 256 = false ∧ paramsWf ⟨8, .away, .keepSign⟩ 255 = true := by decide

/-- 10_state R23: an offset of more than ADDR_W bits. -/
theorem test_wf_offset : offsetFits ⟨8, .away, .keepSign⟩ 256 = false ∧ offsetFits ⟨8, .away, .keepSign⟩ 255 = true := by decide

/-! ## One step of every command -/

/-- A block built from an image, with the parameters 95_test_vectors uses: TIES_AWAY and KEEP_SIGN. -/
def block (bytes : List Byte) : State := State.resetFromImage ⟨16, .away, .keepSign⟩ bytes

/-- The same with OFF and VAL written. -/
def operands (bytes : List Byte) (o : Nat) (v : Bits64) : State := { block bytes with off := .holds o, val := .holds v }

def withText (t : List CodePoint) : State := { block [1, 2] with tin := .holds t, bout := [9] }
def withBytes (b : List Byte) : State := { block [1, 2] with bin := .holds b }

/-- The step that takes a command word. -/
def ran (w : CommandWord) (s : State) : Result := step { s with script := [.cmd w] }

def number : Result → Option (Bits64 × BitVec 4)
  | .next t => some (t.result, t.status)
  | _ => none

def bytes : Result → Option (List Byte × BitVec 4)
  | .next t => some (t.memRead 0 t.len, t.status)
  | _ => none

def text : Result → Option (List CodePoint × BitVec 4)
  | .next t => some (t.tout, t.status)
  | _ => none

def stream : Result → Option (List Byte × BitVec 4)
  | .next t => some (t.bout, t.status)
  | _ => none

def faultOf : Result → Option UndefinedCase
  | .fault (.undefinedOutcome why _) => some why
  | _ => none

/-- 40_block R80. -/
theorem test_length : number (ran 0x001 (block [0, 0, 0, 0, 0])) = some (0x4014000000000000, 0) := by decide +kernel

/-- 40_block R81, "HeX" and "utf-8". -/
theorem test_encsel : number (ran 0x802 (withText [0x48, 0x65, 0x58])) = some (0x3FF0000000000000, 0) ∧
    number (ran 0x802 (withText [0x75, 0x74, 0x66, 0x2D, 0x38])) = some (0, 2) := by decide +kernel

/-- 40_block R81, the omitted and the empty name. -/
theorem test_encsel_omitted_or_empty : number (ran 0x002 (block [])) = some (0x4000000000000000, 0) ∧ number (ran 0x802 (withText [])) = some (0, 2) := by decide +kernel

/-- 41_base64 R91, "QQE=" and "QR==". -/
theorem test_b64dec : stream (ran 0x010 (withText [0x51, 0x51, 0x45, 0x3D])) = some ([0x41, 0x01], 0) ∧
    stream (ran 0x010 (withText [0x51, 0x52, 0x3D, 0x3D])) = some ([0x41], 0) := by decide +kernel

/-- 41_base64 R91 and 95_test_vectors PR3: "QQ=A" and "QQ#=". -/
theorem test_b64dec_errors : stream (ran 0x010 (withText [0x51, 0x51, 0x3D, 0x41])) = some ([], 3) ∧
    stream (ran 0x010 (withText [0x51, 0x51, 0x23, 0x3D])) = some ([], 4) := by decide +kernel

/-- 41_base64 R92 and 95_test_vectors PR2. -/
theorem test_b64enc : text (ran 0x011 (withBytes [0x41])) = some ([0x51, 0x51, 0x3D, 0x3D], 0) ∧
    text (ran 0x011 (withBytes [0xE2, 0x82, 0xAC, 0x41])) = some ([0x34, 0x6F, 0x4B, 0x73, 0x51, 0x51, 0x3D, 0x3D], 0) := by decide +kernel

/-- 42_hex R101, "00Ff10". -/
theorem test_hexdec : stream (ran 0x012 (withText [0x30, 0x30, 0x46, 0x66, 0x31, 0x30])) = some ([0x00, 0xFF, 0x10], 0) := by decide +kernel

/-- 42_hex R101, "1g" and an odd length. -/
theorem test_hexdec_errors : stream (ran 0x012 (withText [0x31, 0x67])) = some ([], 3) ∧ stream (ran 0x012 (withText [0x61, 0x62, 0x63])) = some ([], 3) := by decide +kernel

/-- 42_hex R102. -/
theorem test_hexenc : text (ran 0x013 (withBytes [0x00, 0x0A, 0xFF])) = some ([0x30, 0x30, 0x30, 0x61, 0x66, 0x66], 0) := by decide +kernel

/-- 43_utf8 R111, U+20AC and a surrogate. -/
theorem test_u8enc : stream (ran 0x014 (withText [0x20AC])) = some ([0xE2, 0x82, 0xAC], 0) ∧
    stream (ran 0x014 (withText [0xD800])) = some ([0xED, 0xA0, 0x80], 0) := by decide +kernel

/-- 43_utf8 R110, the largest code point. -/
theorem test_u8enc_largest : stream (ran 0x014 (withText [0x7FFFFFFF])) = some ([0xFD, 0xBF, 0xBF, 0xBF, 0xBF, 0xBF], 0) := by decide +kernel

/-- 43_utf8 R113. -/
theorem test_u8dec : text (ran 0x015 (withBytes [0x41, 0xE2, 0x82, 0xAC])) = some ([0x41, 0x20AC], 0) := by decide +kernel

/-- 43_utf8 R113: an unchecked prefix, an overlong form and stray continuation bytes. -/
theorem test_u8dec_permissive : text (ran 0x015 (withBytes [0xC3, 0x41, 0xC0, 0x80, 0xBF, 0xFF])) = some ([193, 0, 2047], 0) := by decide +kernel

/-- R140, and the same one byte further (44_integer R133). -/
theorem test_readU8 : number (ran 0x380 (operands [0xFF] 0 0)) = some (0x406FE00000000000, 0) ∧
    number (ran 0x380 (operands [0xFF] 1 0)) = some (0, 5) := by decide +kernel

/-- R141, and the same one byte further (44_integer R133). -/
theorem test_readI8 : number (ran 0x388 (operands [0xFF] 0 0)) = some (0xBFF0000000000000, 0) ∧
    number (ran 0x388 (operands [0xFF] 1 0)) = some (0, 5) := by decide +kernel

/-- R142, and the same one byte further (44_integer R133). -/
theorem test_readU16LE : number (ran 0x390 (operands [0x34, 0x12] 0 0)) = some (0x40B2340000000000, 0) ∧
    number (ran 0x390 (operands [0x34, 0x12] 1 0)) = some (0, 5) := by decide +kernel

/-- R143, and the same one byte further (44_integer R133). -/
theorem test_readU16BE : number (ran 0x394 (operands [0x12, 0x34] 0 0)) = some (0x40B2340000000000, 0) ∧
    number (ran 0x394 (operands [0x12, 0x34] 1 0)) = some (0, 5) := by decide +kernel

/-- R144, and the same one byte further (44_integer R133). -/
theorem test_readI16LE : number (ran 0x398 (operands [0x00, 0x80] 0 0)) = some (0xC0E0000000000000, 0) ∧
    number (ran 0x398 (operands [0x00, 0x80] 1 0)) = some (0, 5) := by decide +kernel

/-- R145, and the same one byte further (44_integer R133). -/
theorem test_readI16BE : number (ran 0x39C (operands [0xFF, 0xFE] 0 0)) = some (0xC000000000000000, 0) ∧
    number (ran 0x39C (operands [0xFF, 0xFE] 1 0)) = some (0, 5) := by decide +kernel

/-- R146, and the same one byte further (44_integer R133). -/
theorem test_readU32LE : number (ran 0x3A0 (operands [0x78, 0x56, 0x34, 0x12] 0 0)) = some (0x41B2345678000000, 0) ∧
    number (ran 0x3A0 (operands [0x78, 0x56, 0x34, 0x12] 1 0)) = some (0, 5) := by decide +kernel

/-- R147, and the same one byte further (44_integer R133). -/
theorem test_readU32BE : number (ran 0x3A4 (operands [0xDE, 0xAD, 0xBE, 0xEF] 0 0)) = some (0x41EBD5B7DDE00000, 0) ∧
    number (ran 0x3A4 (operands [0xDE, 0xAD, 0xBE, 0xEF] 1 0)) = some (0, 5) := by decide +kernel

/-- R148, and the same one byte further (44_integer R133). -/
theorem test_readI32LE : number (ran 0x3A8 (operands [0xFF, 0xFF, 0xFF, 0xFF] 0 0)) = some (0xBFF0000000000000, 0) ∧
    number (ran 0x3A8 (operands [0xFF, 0xFF, 0xFF, 0xFF] 1 0)) = some (0, 5) := by decide +kernel

/-- R149, and the same one byte further (44_integer R133). -/
theorem test_readI32BE : number (ran 0x3AC (operands [0x80, 0x00, 0x00, 0x00] 0 0)) = some (0xC1E0000000000000, 0) ∧
    number (ran 0x3AC (operands [0x80, 0x00, 0x00, 0x00] 1 0)) = some (0, 5) := by decide +kernel

/-- R180, and the same one byte further (44_integer R133). -/
theorem test_readF32LE : number (ran 0x3B0 (operands [0x00, 0x00, 0x80, 0x3F] 0 0)) = some (0x3FF0000000000000, 0) ∧
    number (ran 0x3B0 (operands [0x00, 0x00, 0x80, 0x3F] 1 0)) = some (0, 5) := by decide +kernel

/-- R181, and the same one byte further (44_integer R133). -/
theorem test_readF32BE : number (ran 0x3B4 (operands [0xC0, 0x49, 0x0F, 0xDB] 0 0)) = some (0xC00921FB60000000, 0) ∧
    number (ran 0x3B4 (operands [0xC0, 0x49, 0x0F, 0xDB] 1 0)) = some (0, 5) := by decide +kernel

/-- R182, and the same one byte further (44_integer R133). -/
theorem test_readF64LE : number (ran 0x3B8 (operands [0x18, 0x2D, 0x44, 0x54, 0xFB, 0x21, 0x09, 0x40] 0 0)) = some (0x400921FB54442D18, 0) ∧
    number (ran 0x3B8 (operands [0x18, 0x2D, 0x44, 0x54, 0xFB, 0x21, 0x09, 0x40] 1 0)) = some (0, 5) := by decide +kernel

/-- R183, and the same one byte further (44_integer R133). -/
theorem test_readF64BE : number (ran 0x3BC (operands [0x3F, 0xB9, 0x99, 0x99, 0x99, 0x99, 0x99, 0x9A] 0 0)) = some (0x3FB999999999999A, 0) ∧
    number (ran 0x3BC (operands [0x3F, 0xB9, 0x99, 0x99, 0x99, 0x99, 0x99, 0x9A] 1 0)) = some (0, 5) := by decide +kernel

/-- 45_float R180, 2^-149 and -0.0. -/
theorem test_readF32LE_subnormal : number (ran 0x3B0 (operands [1, 0, 0, 0] 0 0)) = some (0x36A0000000000000, 0) ∧
    number (ran 0x3B0 (operands [0, 0, 0, 0x80] 0 0)) = some (0x8000000000000000, 0) := by decide +kernel

/-- 45_float R181, MAXF32 and the largest subnormal. -/
theorem test_readF32BE_largest : number (ran 0x3B4 (operands [0x7F, 0x7F, 0xFF, 0xFF] 0 0)) = some (0x47EFFFFFE0000000, 0) ∧
    number (ran 0x3B4 (operands [0x00, 0x7F, 0xFF, 0xFF] 0 0)) = some (0x380FFFFFC0000000, 0) := by decide +kernel

/-- 44_integer R133, VR5. -/
theorem test_read_without_offset : number (ran 0x180 (operands [7] 0 0)) = some (0, 6) := by decide +kernel

/-- 44_integer R150, VW3. -/
theorem test_writeU8 : bytes (ran 0x7C0 (operands [0x11, 0x22] 0 0x406FE00000000000)) = some ([0xFF, 0x22], 0) ∧
    bytes (ran 0x7C0 (operands [0x11, 0x22] 0 0x4070000000000000)) = some ([0x11, 0x22], 5) := by decide +kernel

/-- 44_integer R151, VW18. -/
theorem test_writeI8 : bytes (ran 0x7C8 (operands [0x11, 0x22] 0 0xC060000000000000)) = some ([0x80, 0x22], 0) ∧
    bytes (ran 0x7C8 (operands [0x11, 0x22] 0 0xBFE0000000000000)) = some ([0x11, 0x22], 7) := by decide +kernel

/-- 44_integer R152, VW94. -/
theorem test_writeU16LE : bytes (ran 0x7D0 (operands [0x11, 0x11, 0x22] 0 0x40B2340000000000)) = some ([0x34, 0x12, 0x22], 0) ∧
    bytes (ran 0x7D0 (operands [0x11, 0x11, 0x22] 0 0x40F1170800000000)) = some ([0x11, 0x11, 0x22], 5) := by decide +kernel

/-- 44_integer R153, VW36. -/
theorem test_writeU16BE : bytes (ran 0x7D4 (operands [0x11, 0x11, 0x22] 0 0x40EFFFE000000000)) = some ([0xFF, 0xFF, 0x22], 0) ∧
    bytes (ran 0x7D4 (operands [0x11, 0x11, 0x22] 0 0x3FE0000000000000)) = some ([0x11, 0x11, 0x22], 7) := by decide +kernel

/-- 44_integer R154, VW45. -/
theorem test_writeI16LE : bytes (ran 0x7D8 (operands [0x11, 0x11, 0x22] 0 0xC000000000000000)) = some ([0xFE, 0xFF, 0x22], 0) ∧
    bytes (ran 0x7D8 (operands [0x11, 0x11, 0x22] 0 0xC0E0002000000000)) = some ([0x11, 0x11, 0x22], 5) := by decide +kernel

/-- 44_integer R155, VW53. -/
theorem test_writeI16BE : bytes (ran 0x7DC (operands [0x11, 0x11, 0x22] 0 0xC0E0000000000000)) = some ([0x80, 0x00, 0x22], 0) ∧
    bytes (ran 0x7DC (operands [0x11, 0x11, 0x22] 0 0x40E0000000000000)) = some ([0x11, 0x11, 0x22], 5) := by decide +kernel

/-- 44_integer R156, VW62. -/
theorem test_writeU32LE : bytes (ran 0x7E0 (operands [0x11, 0x11, 0x11, 0x11, 0x22] 0 0x41EFFFFFFFE00000)) = some ([0xFF, 0xFF, 0xFF, 0xFF, 0x22], 0) ∧
    bytes (ran 0x7E0 (operands [0x11, 0x11, 0x11, 0x11, 0x22] 0 0x3FD0000000000000)) = some ([0x11, 0x11, 0x11, 0x11, 0x22], 7) := by decide +kernel

/-- 44_integer R157, VW69. -/
theorem test_writeU32BE : bytes (ran 0x7E4 (operands [0x11, 0x11, 0x11, 0x11, 0x22] 0 0x41B2345678000000)) = some ([0x12, 0x34, 0x56, 0x78, 0x22], 0) ∧
    bytes (ran 0x7E4 (operands [0x11, 0x11, 0x11, 0x11, 0x22] 0 0x41F0000000000000)) = some ([0x11, 0x11, 0x11, 0x11, 0x22], 5) := by decide +kernel

/-- 44_integer R158, VW79. -/
theorem test_writeI32LE : bytes (ran 0x7E8 (operands [0x11, 0x11, 0x11, 0x11, 0x22] 0 0xC1E0000000000000)) = some ([0x00, 0x00, 0x00, 0x80, 0x22], 0) ∧
    bytes (ran 0x7E8 (operands [0x11, 0x11, 0x11, 0x11, 0x22] 0 0xFFF0000000000000)) = some ([0x11, 0x11, 0x11, 0x11, 0x22], 5) := by decide +kernel

/-- 44_integer R159, VW87. -/
theorem test_writeI32BE : bytes (ran 0x7EC (operands [0x11, 0x11, 0x11, 0x11, 0x22] 0 0xBFF0000000000000)) = some ([0xFF, 0xFF, 0xFF, 0xFF, 0x22], 0) ∧
    bytes (ran 0x7EC (operands [0x11, 0x11, 0x11, 0x11, 0x22] 0 0x41E0000000000000)) = some ([0x11, 0x11, 0x11, 0x11, 0x22], 5) := by decide +kernel

/-- 45_float R184, and an offset one byte too far. -/
theorem test_writeF32LE : bytes (ran 0x7F0 (operands [0x11, 0x11, 0x11, 0x11, 0x22] 0 0x3FF0000000000000)) = some ([0x00, 0x00, 0x80, 0x3F, 0x22], 0) ∧
    bytes (ran 0x7F0 (operands [0x11, 0x11, 0x11, 0x11, 0x22] 2 0x3FF0000000000000)) = some ([0x11, 0x11, 0x11, 0x11, 0x22], 5) := by decide +kernel

/-- 45_float R185, and an offset one byte too far. -/
theorem test_writeF32BE : bytes (ran 0x7F4 (operands [0x11, 0x11, 0x11, 0x11, 0x22] 0 0x3FB999999999999A)) = some ([0x3D, 0xCC, 0xCC, 0xCD, 0x22], 0) ∧
    bytes (ran 0x7F4 (operands [0x11, 0x11, 0x11, 0x11, 0x22] 2 0x3FB999999999999A)) = some ([0x11, 0x11, 0x11, 0x11, 0x22], 5) := by decide +kernel

/-- 45_float R186, and an offset one byte too far. -/
theorem test_writeF64LE : bytes (ran 0x7F8 (operands [0x11, 0x11, 0x11, 0x11, 0x11, 0x11, 0x11, 0x11, 0x22] 0 0xC004000000000000)) = some ([0x00, 0x00, 0x00, 0x00, 0x00, 0x00, 0x04, 0xC0, 0x22], 0) ∧
    bytes (ran 0x7F8 (operands [0x11, 0x11, 0x11, 0x11, 0x11, 0x11, 0x11, 0x11, 0x22] 2 0xC004000000000000)) = some ([0x11, 0x11, 0x11, 0x11, 0x11, 0x11, 0x11, 0x11, 0x22], 5) := by decide +kernel

/-- 45_float R187, and an offset one byte too far. -/
theorem test_writeF64BE : bytes (ran 0x7FC (operands [0x11, 0x11, 0x11, 0x11, 0x11, 0x11, 0x11, 0x11, 0x22] 0 0x3FF0000000000000)) = some ([0x3F, 0xF0, 0x00, 0x00, 0x00, 0x00, 0x00, 0x00, 0x22], 0) ∧
    bytes (ran 0x7FC (operands [0x11, 0x11, 0x11, 0x11, 0x11, 0x11, 0x11, 0x11, 0x22] 2 0x3FF0000000000000)) = some ([0x11, 0x11, 0x11, 0x11, 0x11, 0x11, 0x11, 0x11, 0x22], 5) := by decide +kernel

/-- 45_float R184: MAXF32, the next binary64 above it, and -1e-50. -/
theorem test_writeF32LE_range : bytes (ran 0x7F0 (operands [0, 0, 0, 0] 0 0x47EFFFFFE0000000)) = some ([0xFF, 0xFF, 0x7F, 0x7F], 0) ∧
    bytes (ran 0x7F0 (operands [0, 0, 0, 0] 0 0x47EFFFFFE0000001)) = some ([0, 0, 0, 0], 5) ∧
    bytes (ran 0x7F0 (operands [0, 0, 0, 0] 0 0xB58DEE7A4AD4B81F)) = some ([0, 0, 0, 0x80], 0) := by decide +kernel

/-- 45_float R185: 1 + 2^-24 under both tie rules. -/
theorem test_writeF32BE_ties : bytes (ran 0x7F4 (operands [0, 0, 0, 0] 0 0x3FF0000010000000)) = some ([0x3F, 0x80, 0x00, 0x01], 0) ∧
    bytes (ran 0x7F4 { operands [0, 0, 0, 0] 0 0x3FF0000010000000 with params := ⟨16, .even, .keepSign⟩ }) =
      some ([0x3F, 0x80, 0x00, 0x00], 0) := by decide +kernel

/-- 45_float R175: -0.0 under both values of NEG_ZERO_WRITE. -/
theorem test_writeF64BE_negative_zero : bytes (ran 0x7FC (operands [1, 1, 1, 1, 1, 1, 1, 1] 0 0x8000000000000000)) = some ([0x80, 0, 0, 0, 0, 0, 0, 0], 0) ∧
    bytes (ran 0x7FC { operands [1, 1, 1, 1, 1, 1, 1, 1] 0 0x8000000000000000 with params := ⟨16, .even, .clearSign⟩ }) =
      some ([0, 0, 0, 0, 0, 0, 0, 0], 0) := by decide +kernel

/-- 60_exceptions R214: VW101, VW100 and a register never written. -/
theorem test_undefined_cases : faultOf (ran 0x4C0 (operands [0] 0 0x3FF0000000000000)) = some .offsetAbsent ∧
    faultOf (ran 0x6D0 (operands [0, 0, 0, 0] 3 0x3FF0000000000000)) = some .offsetOutOfBounds ∧
    faultOf (ran 0x010 (block [])) = some (.unwritten .tin) := by decide +kernel

/-- 60_exceptions R216, VE15, on a block whose operand registers were never written. -/
theorem test_illegal_word : ran 0x084 (block [5]) = .next { block [5] with cmd := .holds 0x084, csp := 1, status := 8 } := rfl

/-! ## States and operands that meet the hypotheses of the statements -/

/-- A = 1, OV = 1, VV = 1. -/
def checked : Ctl := ⟨true, true, true, false⟩

/-- A = 0, OV = 1, VV = 1. -/
def unchecked : Ctl := ⟨false, true, true, false⟩

theorem next_of_number {r : Result} (h : (number r).isSome = true) : ∃ t, r = .next t := by
  cases r with
  | next t => exact ⟨t, rfl⟩
  | fault f => cases h
  | refused f => cases h

theorem completed_of_number {r : Result} (h : (number r).map Prod.snd = some 0) : ∃ t, r = .next t ∧ t.status = 0 := by
  cases r with
  | next t => exact ⟨t, rfl, Option.some.inj h⟩
  | fault f => cases h
  | refused f => cases h

theorem test_witness_StepRunsTheDecodedCommand :
    let s : State := { block [5] with script := [.cmd 0x380] }
    s.undef = false ∧ s.script = .cmd 0x380 :: [] ∧ decode 0x380 = .ok (.readU8 ⟨true, true, false, false⟩) := by decide

theorem test_witness_IllegalWordWritesOnlyStatus :
    let s : State := { block [5] with script := [.cmd 0x84] }
    s.undef = false ∧ s.script = .cmd 0x84 :: [] ∧ legalWord 0x84 = false := by decide

theorem test_witness_HostWritesReachTheirRegisters :
    (block []).undef = false ∧ (block []).script = [] ∧
    { block [] with script := [HostWrite.val 1] }.script = .val 1 :: [] ∧
    { block [] with script := [HostWrite.tin [1]] }.script = .tin [1] :: [] ∧
    { block [] with script := [HostWrite.bin [1]] }.script = .bin [1] :: [] ∧
    { block [] with script := [HostWrite.off 65535] }.script = .off 65535 :: [] ∧ 65535 < 2 ^ (block []).params.addrW ∧
    { block [] with script := [HostWrite.off 65536] }.script = .off 65536 :: [] ∧ ¬ 65536 < 2 ^ (block []).params.addrW := by decide

theorem test_witness_PositionCountsCommands :
    (∃ t, endState (step (block [])) = some t) ∧ (∃ t, endState (step { block [] with script := [.cmd 0x84] }) = some t) ∧
    ∃ t, endState (step { block [] with script := [.cmd 0x10] }) = some t ∧ t.undef = true := ⟨⟨_, rfl⟩, ⟨_, rfl⟩, ⟨_, rfl, rfl⟩⟩

theorem test_witness_FaultedBlockTakesNoStep :
    (block []).faulted.undef = true := rfl

theorem test_witness_ResetLeavesTheSpecsValues :
    (0 : Nat) < (State.resetFromImage ⟨16, .away, .keepSign⟩ [7]).len := by decide

theorem test_witness_EveryStepKeepsGood :
    ∃ s t : State, s.Good ∧ step s = .next t ∧ s.script = [.cmd 0x380] ∧ s.off = .holds 0 := by
  obtain ⟨t, h⟩ := next_of_number (r := ran 0x380 (operands [0xFF] 0 0)) (by decide +kernel)
  exact ⟨_, t, by unfold State.Good; decide, h, rfl, rfl⟩

theorem test_witness_CommandsKeepTheHostsRegisters :
    (∃ t, exec (.writeU8 checked) (operands [0, 0] 1 0x3FF0000000000000) = .next t) ∧
    (∃ t, endState (exec (.b64dec checked) (block [])) = some t) ∧
    ∃ why t, exec (.b64dec checked) (block []) = .fault (.undefinedOutcome why t) := ⟨next_of_number (by decide +kernel), ⟨_, rfl⟩, ⟨_, _, rfl⟩⟩

theorem test_witness_EachOutputHasItsOwnWriters :
    (∃ t, exec (.writeU8 checked) (operands [0, 0] 1 0x3FF0000000000000) = .next t) ∧
    (operands [0, 0] 1 0x3FF0000000000000).off = .holds 1 ∧
    (∃ t, exec (.writeU8 ⟨true, false, false, false⟩) (block []) = .next t) ∧ (∃ t, exec (.length checked) (block []) = .next t) ∧
    (∃ t, exec (.hexdec checked) (withText []) = .next t) ∧ ∃ t, exec (.hexenc checked) (withBytes [1]) = .next t := 
    ⟨next_of_number (by decide +kernel), rfl, ⟨_, rfl⟩, next_of_number (by decide +kernel), next_of_number (by decide +kernel),
      next_of_number (by decide +kernel)⟩

theorem test_witness_StatusIsOneOfTheCommandsCodes :
    ∃ t, exec (.readI8 ⟨true, false, false, false⟩) (block []) = .next t := ⟨_, rfl⟩

theorem test_witness_ErrorsChangeOnlyStatusAndOwnStream :
    ∃ t, exec (.readI8 ⟨true, false, false, false⟩) (block []) = .next t ∧ t.status ≠ 0 := ⟨_, rfl, by decide⟩

theorem test_witness_UndefinedExactlyInItsCases :
    (∃ f, exec (.b64dec checked) (block []) = .fault f) ∧ EndsUndefined (.b64dec checked) (block []) ∧
    EndsUndefined (.writeU8 ⟨false, false, false, false⟩) (block []) := 
    ⟨⟨_, rfl⟩, .inl ⟨.tin, rfl, rfl⟩, .inr ⟨1, rfl, rfl, .inl rfl⟩⟩

theorem test_witness_UnusedFlagBitsAreIgnored :
    checked.tv = (⟨true, true, false, false⟩ : Ctl).tv ∧ checked.a = (⟨true, true, true, true⟩ : Ctl).a ∧
    checked.ov = (⟨true, true, true, true⟩ : Ctl).ov ∧ checked.vv = (⟨true, true, true, true⟩ : Ctl).vv := by decide

theorem test_witness_CommandsIgnoreTheOutputRegisters :
    ∃ t, exec (.readI8 ⟨true, false, false, false⟩) (block []) = .next t := ⟨_, rfl⟩

theorem test_witness_MemoryReadsTheLatestWrite :
    Memory.wf [(0, 1), (5, 2)] = true := by decide

theorem test_witness_ByteOrderIsAsStated :
    (3 : Nat) < 4 := by decide

theorem test_witness_TwosComplementConversions :
    (0 : Nat) < 2 ^ IntType.u8.bits ∧ 2 ^ 16 - 1 < 2 ^ IntType.i16.bits ∧ IntType.i8.min ≤ -128 ∧ (-128 : Int) ≤ IntType.i8.max ∧
    IntType.u32.min ≤ 4294967295 ∧ (4294967295 : Int) ≤ IntType.u32.max := by decide

theorem test_witness_Binary64LayoutIsAsStated :
    f64 0x8000000000000001 = .fin true 1 ∧ f64 0x0010000000000000 = .fin false (2 ^ 52) := by decide +kernel

theorem test_witness_IntegersAreExactInBinary64 :
    |(2 ^ 53 : ℤ)| ≤ 2 ^ 53 ∧ |(-2 ^ 53 : ℤ)| ≤ 2 ^ 53 ∧ |(0 : ℤ)| ≤ 2 ^ 53 := by decide

theorem test_witness_RoundNearestIsAsStated :
    (0 : Nat) < 2 := by decide

theorem test_witness_DrawnNaNsAreExactlyTheNaNs :
    nanPattern64 0x7FF0000000000001 ∧ nanPattern32 0xFFFFFFFF := by decide +kernel

theorem test_witness_LengthReadsTheByteCount :
    (block [1]).len ≤ 2 ^ 53 - 1 ∧ (State.resetFromCount ⟨60, .away, .keepSign⟩ (2 ^ 53 - 1)).len ≤ 2 ^ 53 - 1 := by decide

theorem test_witness_EncselResolvesTheThreeNames :
    (⟨false, false, false, false⟩ : Ctl).tv = false ∧ (⟨false, false, false, true⟩ : Ctl).tv = true ∧
    (withText [0x48, 0x65, 0x58]).tin = .holds [0x48, 0x65, 0x58] ∧
    SameUpToCase [0x42, 0x61, 0x73, 0x65, 0x36, 0x34] [0x62, 0x61, 0x73, 0x65, 0x36, 0x34] ∧
    SameUpToCase [0x48, 0x65, 0x58] [0x68, 0x65, 0x78] ∧ SameUpToCase [0x55, 0x54, 0x46, 0x38] [0x75, 0x74, 0x66, 0x38] ∧
    (withText []).tin = .holds [] ∧ ¬ SameUpToCase [] [0x62, 0x61, 0x73, 0x65, 0x36, 0x34] ∧
    ¬ SameUpToCase [] [0x68, 0x65, 0x78] ∧ ¬ SameUpToCase [] [0x75, 0x74, 0x66, 0x38] := by
  unfold SameUpToCase
  refine ⟨rfl, rfl, rfl, ?_, ?_, ?_, rfl, ?_, ?_, ?_⟩ <;> simp

theorem padding_of_list {t : List CodePoint} (h : ∀ i < t.length, t[i]? = some 0x3D →
    (i + 2 < t.length ∨ (i + 2 = t.length ∧ t[i + 1]? ≠ some 0x3D)) → False) : ¬ PaddingMisplaced t := by
  rintro ⟨i, h1, h2⟩
  exact h i (by rcases h2 with h | h <;> omega) h1 h2

theorem test_witness_B64decDecodesOrRaises :
    (withText [0x51]).tin = .holds [0x51] ∧ [0x51].length % 4 ≠ 0 ∧
    ([0x51, 0x51, 0x3D, 0x41] : List CodePoint).length % 4 = 0 ∧ PaddingMisplaced [0x51, 0x51, 0x3D, 0x41] ∧
    PaddingMisplaced [0x41, 0x3D, 0x3D, 0x3D] ∧ ¬ PaddingMisplaced [0x51, 0x51, 0x23, 0x3D] ∧
    (∃ p ∈ ([0x51, 0x51, 0x23, 0x3D] : List CodePoint), p ≠ 0x3D ∧ sixBitValue p = none) ∧
    ¬ PaddingMisplaced [0x51, 0x51, 0x3D, 0x3D] ∧ ∀ p ∈ ([0x51, 0x51, 0x3D, 0x3D] : List CodePoint), p = 0x3D ∨ sixBitValue p ≠ none := 
    ⟨rfl, by decide, rfl, ⟨2, by decide⟩, ⟨1, by decide⟩, padding_of_list (by decide), ⟨0x23, by decide⟩,
      padding_of_list (by decide), by simp [sixBitValue]⟩

theorem test_witness_B64encEncodesEveryByteList :
    (withBytes [0x41]).bin = .holds [0x41] ∧ (withBytes []).bin = .holds [] := by decide

theorem test_witness_Base64RoundTrip :
    (withBytes [0x41]).bin = .holds [0x41] ∧ (withText [0x51, 0x52, 0x3D, 0x3D]).tin = .holds [0x51, 0x52, 0x3D, 0x3D] := by decide

theorem test_witness_HexdecDecodesOrRaises :
    (withText [0x31]).tin = .holds [0x31] ∧ [0x31].length % 2 ≠ 0 ∧ (withText [0x31, 0x67]).tin = .holds [0x31, 0x67] ∧
    (∃ p ∈ ([0x31, 0x67] : List CodePoint), hexDigitValue p = none) ∧ (withText [0x31, 0x46]).tin = .holds [0x31, 0x46] ∧
    ([0x31, 0x46] : List CodePoint).length % 2 = 0 ∧ ∀ p ∈ ([0x31, 0x46] : List CodePoint), hexDigitValue p ≠ none := ⟨rfl, by decide, rfl, ⟨0x67, by decide⟩, rfl, rfl, by simp [hexDigitValue]⟩

theorem test_witness_HexencEncodesEveryByteList :
    (withBytes [0x0A]).bin = .holds [0x0A] := by decide

theorem test_witness_HexRoundTrip :
    (withBytes [0xFF]).bin = .holds [0xFF] ∧ (withText [0x46, 0x46]).tin = .holds [0x46, 0x46] ∧
    ([0x46, 0x46] : List CodePoint).length % 2 = 0 ∧ (∀ p ∈ ([0x46, 0x46] : List CodePoint), hexDigitValue p ≠ none) ∧
    ∃ p ∈ ([0x46, 0x46] : List CodePoint), 65 ≤ p.toNat ∧ p.toNat ≤ 70 := ⟨rfl, rfl, rfl, by simp [hexDigitValue], ⟨0x46, by decide⟩⟩

theorem test_witness_U8encEncodesEveryText :
    (withText [0x20AC]).tin = .holds [0x20AC] ∧ (withText []).tin = .holds [] := by decide

theorem test_witness_U8decDecodesEveryByteList :
    (withBytes [0xC3, 0x41]).bin = .holds [0xC3, 0x41] ∧ IsSequence [0xC3, 0x41] (193#31).toNat ∧
    UndecodableRest [0xFE] ∧ UndecodableRest [0xE2, 0x82] ∧ (withBytes [0x41, 0xE2, 0x82]).bin = .holds ([0x41] ++ [0xE2, 0x82]) ∧
    IsSequence [0x41] (0x41#31).toNat := 
    ⟨rfl, by simp [IsSequence], ⟨_, _, rfl, by decide⟩, ⟨_, _, rfl, by decide⟩, rfl, by simp [IsSequence]⟩

theorem test_witness_Utf8RoundTrip :
    (withText [0x7FFFFFFF]).tin = .holds [0x7FFFFFFF] ∧ (withBytes [0xC0, 0x80]).bin = .holds [0xC0, 0x80] ∧
    (withBytes [0x80, 0x80]).bin = .holds [0x80, 0x80] := by decide

theorem test_witness_UnsignedReadsGiveTheBytes :
    (Instr.readU8 checked).ctl.ov = true ∧ (operands [1, 2, 3, 4] 3 0).off = .holds 3 ∧ 3 + 1 ≤ (operands [1, 2, 3, 4] 3 0).len ∧
    (operands [1, 2, 3, 4] 2 0).off = .holds 2 ∧ 2 + 2 ≤ (operands [1, 2, 3, 4] 2 0).len ∧
    (operands [1, 2, 3, 4] 0 0).off = .holds 0 ∧ 0 + 4 ≤ (operands [1, 2, 3, 4] 0 0).len := by decide

theorem test_witness_SignedReadsAdjustTheBytes :
    (Instr.readU8 checked).ctl.ov = true ∧ (operands [1, 2, 3, 4] 3 0).off = .holds 3 ∧ 3 + 1 ≤ (operands [1, 2, 3, 4] 3 0).len ∧
    (operands [1, 2, 3, 4] 2 0).off = .holds 2 ∧ 2 + 2 ≤ (operands [1, 2, 3, 4] 2 0).len ∧
    (operands [1, 2, 3, 4] 0 0).off = .holds 0 ∧ 0 + 4 ≤ (operands [1, 2, 3, 4] 0 0).len := by decide

theorem test_witness_ReadsAtABadOffset :
    commandClass (.readF64LE ⟨true, false, false, false⟩) = .numericRead 8 ∧
    (Instr.readF64LE ⟨true, false, false, false⟩).ctl.ov = false ∧ commandClass (.readU8 unchecked) = .numericRead 1 ∧
    (Instr.readU8 unchecked).ctl.ov = true ∧ (operands [1, 2] 2 0).off = .holds 2 ∧ (operands [1, 2] 2 0).len < 2 + 1 := by decide

theorem test_witness_UnsignedWritesStoreTheValue :
    (Instr.writeU32BE checked).ctl.ov = true ∧ (Instr.writeU32BE checked).ctl.vv = true ∧
    (operands [0, 0, 0, 0] 0 0x0000000000000000).buf.wf = true ∧ (operands [0, 0, 0, 0] 0 0x0000000000000000).off = .holds 0 ∧ (operands [0, 0, 0, 0] 0 0x0000000000000000).val = .holds 0x0000000000000000 ∧ 0 + 4 ≤ (operands [0, 0, 0, 0] 0 0x0000000000000000).len ∧
    finite64 0x0000000000000000 ∧ value64 0x0000000000000000 = (0 : ℤ) ∧
    (operands [0, 0, 0, 0] 0 0x41EFFFFFFFE00000).buf.wf = true ∧ (operands [0, 0, 0, 0] 0 0x41EFFFFFFFE00000).off = .holds 0 ∧ (operands [0, 0, 0, 0] 0 0x41EFFFFFFFE00000).val = .holds 0x41EFFFFFFFE00000 ∧ 0 + 4 ≤ (operands [0, 0, 0, 0] 0 0x41EFFFFFFFE00000).len ∧
    finite64 0x41EFFFFFFFE00000 ∧ value64 0x41EFFFFFFFE00000 = (4294967295 : ℤ) := by decide +kernel

theorem test_witness_SignedWritesStoreTwosComplement :
    (Instr.writeI16LE checked).ctl.ov = true ∧ (Instr.writeI16LE checked).ctl.vv = true ∧
    (operands [0, 0] 0 0xC0E0000000000000).buf.wf = true ∧ (operands [0, 0] 0 0xC0E0000000000000).off = .holds 0 ∧ (operands [0, 0] 0 0xC0E0000000000000).val = .holds 0xC0E0000000000000 ∧ 0 + 2 ≤ (operands [0, 0] 0 0xC0E0000000000000).len ∧
    finite64 0xC0E0000000000000 ∧ value64 0xC0E0000000000000 = (-32768 : ℤ) ∧
    (operands [0, 0] 0 0x40DFFFC000000000).buf.wf = true ∧ (operands [0, 0] 0 0x40DFFFC000000000).off = .holds 0 ∧ (operands [0, 0] 0 0x40DFFFC000000000).val = .holds 0x40DFFFC000000000 ∧ 0 + 2 ≤ (operands [0, 0] 0 0x40DFFFC000000000).len ∧
    finite64 0x40DFFFC000000000 ∧ value64 0x40DFFFC000000000 = (32767 : ℤ) := by decide +kernel

theorem test_witness_CheckedWritesRefuseBadOperands :
    commandClass (.writeF32LE ⟨true, true, false, false⟩) = .numericWrite 4 ∧
    (Instr.writeF32LE ⟨true, true, false, false⟩).ctl.vv = false ∧
    OperandsWritten (.writeF32LE ⟨true, true, false, false⟩) (operands [] 0 0) ∧
    commandClass (.writeU8 checked) = .numericWrite 1 ∧ OperandsWritten (.writeU8 checked) (operands [0] 1 0) ∧
    (operands [0] 1 0).off = .holds 1 ∧ (operands [0] 1 0).len < 1 + 1 := by
  refine ⟨rfl, rfl, ?_, rfl, ?_, rfl, by decide⟩ <;>
  · intro r h
    cases r <;> simp_all [readsOperand, commandClass, State.unwritten, operands]

theorem test_witness_CheckedIntegerWritesRefuseBadValues :
    intWriteRange (.writeU8 checked) = some (1, 0, 255) ∧ (operands [0] 0 0x4070000000000000).off = .holds 0 ∧
    (operands [0] 0 0x4070000000000000).val = .holds 0x4070000000000000 ∧ 0 + 1 ≤ (operands [0] 0 0x4070000000000000).len ∧
    value64 0x4070000000000000 > (255 : ℤ) ∧ value64 0xBFF0000000000000 < (0 : ℤ) ∧ ¬ finite64 0x7FF8000000000000 ∧
    ¬ finite64 0xFFF0000000000000 ∧ finite64 0x3FE0000000000000 ∧ (0 : ℤ) ≤ value64 0x3FE0000000000000 ∧
    value64 0x3FE0000000000000 ≤ (255 : ℤ) ∧ ∀ x : ℤ, value64 0x3FE0000000000000 ≠ x := by
  refine ⟨rfl, rfl, rfl, by decide, by decide +kernel, by decide +kernel, by decide +kernel, by decide +kernel, by decide +kernel,
    by decide +kernel, by decide +kernel, ?_⟩
  intro x h
  have hv : value64 0x3FE0000000000000 = 1 / 2 := by decide +kernel
  have h2 : ((1 : ℤ) : ℚ) = ((x * 2 : ℤ) : ℚ) := by
    push_cast
    linarith
  have := Int.cast_injective h2
  omega

theorem test_witness_UncheckedWritesOfABadValueStoreDrawnBytes :
    commandClass (.writeF64BE ⟨false, true, false, false⟩) = .numericWrite 8 ∧
    (operands [0, 0, 0, 0, 0, 0, 0, 0] 0 0).off = .holds 0 ∧ 0 + 8 ≤ (operands [0, 0, 0, 0, 0, 0, 0, 0] 0 0).len ∧
    (operands [0, 0, 0, 0, 0, 0, 0, 0] 0 0).buf.wf = true ∧ intWriteRange (.writeI8 unchecked) = some (1, -128, 127) ∧
    (operands [1] 0 0x7FF8000000000000).off = .holds 0 ∧ (operands [1] 0 0x7FF8000000000000).val = .holds 0x7FF8000000000000 ∧
    0 + 1 ≤ (operands [1] 0 0x7FF8000000000000).len ∧ ¬ finite64 0x7FF8000000000000 ∧
    (operands [1] 0 0x7FF8000000000000).buf.wf = true ∧ value64 0x4060000000000000 > (127 : ℤ) := by decide +kernel

theorem test_witness_UncheckedWritesAtABadOffsetAreUndefined :
    commandClass (.writeU8 ⟨false, false, true, false⟩) = .numericWrite 1 ∧
    OperandsWritten (.writeU8 ⟨false, false, true, false⟩) (operands [0] 1 0) ∧
    commandClass (.writeU8 unchecked) = .numericWrite 1 ∧ OperandsWritten (.writeU8 unchecked) (operands [0] 1 0) ∧
    (operands [0] 1 0).off = .holds 1 ∧ (operands [0] 1 0).len < 1 + 1 := by
  refine ⟨rfl, ?_, rfl, ?_, rfl, by decide⟩ <;>
  · intro r h
    cases r <;> simp_all [readsOperand, commandClass, State.unwritten, operands]

theorem test_witness_IntegerRoundTrip :
    (operands [9, 9] 0 0xC0E0000000000000).buf.wf = true ∧ (operands [9, 9] 0 0xC0E0000000000000).off = .holds 0 ∧
    (operands [9, 9] 0 0xC0E0000000000000).val = .holds 0xC0E0000000000000 ∧ 0 + 2 ≤ (operands [9, 9] 0 0xC0E0000000000000).len ∧
    isBits64 ((-32768 : ℤ) : ℚ) 0xC0E0000000000000 ∧ isBits64 ((4294967295 : ℤ) : ℚ) 0x41EFFFFFFFE00000 := by
  unfold isBits64
  decide +kernel

theorem test_witness_MixedWidthsSeePlainBytes :
    (∃ t, exec (.writeU32BE checked) (operands [9, 9, 9, 9, 9] 0 0x41B1223344000000) = .next t ∧ t.status = 0) ∧
    commandClass (.writeU32BE checked) = .numericWrite 4 ∧ commandClass (.readF32LE checked) = .numericRead 4 ∧
    (Instr.readF32LE checked).ctl.ov = true ∧ (operands [9, 9, 9, 9, 9] 0 0x41B1223344000000).buf.wf = true ∧
    (operands [9, 9, 9, 9, 9] 0 0x41B1223344000000).off = .holds 0 ∧ 1 + 4 ≤ (operands [9, 9, 9, 9, 9] 0 0x41B1223344000000).len ∧
    (operands [9, 9, 9, 9] 0 0x41B1223344000000).off = .holds 0 ∧
    (operands [9, 9, 9, 9] 0 0x41B1223344000000).val = .holds 0x41B1223344000000 ∧ isBits64 0x11223344 0x41B1223344000000 ∧
    0 + 4 ≤ (operands [9, 9, 9, 9] 0 0x41B1223344000000).len ∧ (operands [9, 9, 9, 9] 0 0x41B1223344000000).buf.wf = true := by
  refine ⟨completed_of_number (by decide +kernel), ?_⟩
  unfold isBits64
  decide +kernel

theorem test_witness_SingleReadsAreExact :
    (operands [1, 0, 0, 0x80] 0 0).off = .holds 0 ∧ 0 + 4 ≤ (operands [1, 0, 0, 0x80] 0 0).len ∧
    finite32 (BitVec.ofNat 32 ((operands [1, 0, 0, 0x80] 0 0).lePattern 0 4)) ∧
    BitVec.ofNat 32 ((operands [0, 0, 0x80, 0x7F] 0 0).lePattern 0 4) = 0x7F800000#32 ∧
    BitVec.ofNat 32 ((operands [0xFF, 0x80, 0, 0] 0 0).bePattern 0 4) = 0xFF800000#32 ∧
    nanPattern32 (BitVec.ofNat 32 ((operands [0x7F, 0xC0, 0, 0] 0 0).bePattern 0 4)) := by decide +kernel

theorem test_witness_DoubleReadsReturnThePattern :
    (operands [0x80, 0, 0, 0, 0, 0, 0, 0] 0 0).off = .holds 0 ∧ 0 + 8 ≤ (operands [0x80, 0, 0, 0, 0, 0, 0, 0] 0 0).len ∧
    ¬ nanPattern64 (BitVec.ofNat 64 ((operands [0x80, 0, 0, 0, 0, 0, 0, 0] 0 0).bePattern 0 8)) ∧
    nanPattern64 (BitVec.ofNat 64 ((operands [1, 0, 0, 0, 0, 0, 0xF0, 0x7F] 0 0).lePattern 0 8)) := by decide +kernel

theorem test_witness_DoubleWritesStoreThePattern :
    (operands [9, 9, 9, 9, 9, 9, 9, 9] 0 1).off = .holds 0 ∧ (operands [9, 9, 9, 9, 9, 9, 9, 9] 0 1).val = .holds 1 ∧
    0 + 8 ≤ (operands [9, 9, 9, 9, 9, 9, 9, 9] 0 1).len ∧ (operands [9, 9, 9, 9, 9, 9, 9, 9] 0 1).buf.wf = true ∧
    ¬ nanPattern64 1 ∧ (1 : Bits64) ≠ 0x8000000000000000 ∧ ¬ nanPattern64 0xFFF0000000000000 ∧ nanPattern64 0x7FF8000000000000 := by decide +kernel

theorem test_witness_SingleWritesOfSpecialValues :
    (operands [9, 9, 9, 9] 0 0).off = .holds 0 ∧ (operands [9, 9, 9, 9] 0 0).val = .holds 0 ∧ 0 + 4 ≤ (operands [9, 9, 9, 9] 0 0).len ∧
    (operands [9, 9, 9, 9] 0 0).buf.wf = true ∧ nanPattern64 0x7FF8000000000000 := by decide +kernel

theorem test_witness_SingleWritesStoreTheNearest :
    (operands [9, 9, 9, 9] 0 0xC7EFFFFFE0000000).off = .holds 0 ∧
    (operands [9, 9, 9, 9] 0 0xC7EFFFFFE0000000).val = .holds 0xC7EFFFFFE0000000 ∧
    0 + 4 ≤ (operands [9, 9, 9, 9] 0 0xC7EFFFFFE0000000).len ∧ (operands [9, 9, 9, 9] 0 0xC7EFFFFFE0000000).buf.wf = true ∧
    finite64 0xC7EFFFFFE0000000 ∧ value64 0xC7EFFFFFE0000000 ≠ 0 ∧ |value64 0xC7EFFFFFE0000000| ≤ maxF32 ∧
    finite64 1 ∧ value64 1 ≠ 0 ∧ |value64 1| ≤ maxF32 := by decide +kernel

theorem test_witness_SingleWritesBeyondTheRange :
    (operands [9, 9, 9, 9] 0 0x47EFFFFFE0000001).off = .holds 0 ∧
    (operands [9, 9, 9, 9] 0 0x47EFFFFFE0000001).val = .holds 0x47EFFFFFE0000001 ∧
    0 + 4 ≤ (operands [9, 9, 9, 9] 0 0x47EFFFFFE0000001).len ∧ (operands [9, 9, 9, 9] 0 0x47EFFFFFE0000001).buf.wf = true ∧
    finite64 0x47EFFFFFE0000001 ∧ maxF32 < |value64 0x47EFFFFFE0000001| ∧ checked.a = true ∧ unchecked.a = false := by decide +kernel

theorem test_witness_DoubleRoundTrip :
    (operands [9, 9, 9, 9, 9, 9, 9, 9] 0 0x8000000000000000).off = .holds 0 ∧
    (operands [9, 9, 9, 9, 9, 9, 9, 9] 0 0x8000000000000000).val = .holds 0x8000000000000000 ∧
    0 + 8 ≤ (operands [9, 9, 9, 9, 9, 9, 9, 9] 0 0x8000000000000000).len ∧
    (operands [9, 9, 9, 9, 9, 9, 9, 9] 0 0x8000000000000000).buf.wf = true := by decide +kernel

theorem test_witness_SingleRoundTrip :
    (operands [9, 9, 9, 9] 0 0x47EFFFFFE0000000).off = .holds 0 ∧
    (operands [9, 9, 9, 9] 0 0x47EFFFFFE0000000).val = .holds 0x47EFFFFFE0000000 ∧
    0 + 4 ≤ (operands [9, 9, 9, 9] 0 0x47EFFFFFE0000000).len ∧ (operands [9, 9, 9, 9] 0 0x47EFFFFFE0000000).buf.wf = true ∧
    (finite64 0x47EFFFFFE0000000 → |value64 0x47EFFFFFE0000000| ≤ maxF32) ∧ nanPattern64 0x7FF8000000000000 ∧
    ¬ finite64 0xFFF0000000000000 ∧ ¬ nanPattern64 0xFFF0000000000000 := by decide +kernel

end Sys2Proof.Tests
end

section
/-! Good states (10_state R20 to R30) and what a command may change: ResetIsGood, EveryStepKeepsGood,
CommandsKeepTheHostsRegisters. -/

namespace Sys2Proof.Machine

/-! ## Reset -/

theorem length_initImage_le : Config.initImage.length ≤ Config.maxLen Config.addrW := by
  unfold Config.initImage
  exact List.length_take_le _ _

theorem reset_paramsWf : paramsWf State.reset.params State.reset.len = true := by
  have hlen : State.reset.len ≤ min (2 ^ 53 - 1) (2 ^ State.reset.params.addrW - 1) := length_initImage_le
  have haddr : 1 ≤ State.reset.params.addrW := Nat.le_add_left 1 _
  obtain ⟨hmax, hwidth⟩ := Nat.le_min.1 hlen
  simp only [paramsWf, haddr, hmax, hwidth, decide_true, Bool.and_self]

theorem reset_buf_below : State.reset.buf.below State.reset.len = true := by
  have h := Memory.below_ofBytesFrom 0 Config.initImage
  rwa [Nat.zero_add] at h

/-- Settles O10: LEN and ADDR_W by the way Config builds them, BUF by the laws of `Memory.ofBytes`. -/
theorem resetIsGood : Obligations.ResetIsGood :=
  ⟨reset_paramsWf, State.reset_buf_wf, reset_buf_below, rfl, by decide, rfl⟩

/-! ## What a command that completes may change -/

/-- A command changed nothing but outputs: the host's side and UNDEF are as they were, what it wrote to BUF lies below LEN, and
STATUS is a code of R200. -/
structure ChangesOnlyOutputs (s t : State) : Prop where
  host : KeepsHostSide s t
  undef : t.undef = s.undef
  buf : t.buf = s.buf ∨ ∃ o bs, o + bs.length ≤ s.len ∧ t.buf = s.buf.writeBytes o bs
  status : t.status ≤ 8

theorem KeepsHostSide.refl (s : State) : KeepsHostSide s s := ⟨rfl, rfl, rfl, rfl, rfl, rfl, rfl, rfl, rfl⟩

theorem keepsHostSide_raise (s : State) (o : OutStream) (e : ErrorKind) : KeepsHostSide s (s.raise o e) := by
  simp [KeepsHostSide]

theorem keepsHostSide_faulted (s : State) : KeepsHostSide s s.faulted := KeepsHostSide.refl s

theorem ErrorKind.code_le (e : ErrorKind) : e.code ≤ 8 := by cases e <;> decide

theorem raise_changesOnlyOutputs (s : State) (o : OutStream) (e : ErrorKind) : ChangesOnlyOutputs s (s.raise o e) where
  host := keepsHostSide_raise s o e
  undef := State.raise_undef s o e
  buf := .inl (State.raise_buf s o e)
  status := by rw [State.raise_status]; exact e.code_le

/-- A command that ends in `done` and leaves BUF alone. -/
theorem done_changesOnlyOutputs (s : State) (r : Bits64) (x : List CodePoint) (b : List Byte) (d : Nat) :
    ChangesOnlyOutputs s { s with result := r, tout := x, bout := b, status := 0, draws := d } where
  host := KeepsHostSide.refl s
  undef := rfl
  buf := .inl rfl
  status := by simp

theorem ReadOutcome.changesOnlyOutputs {n : Nat} {c : Ctl} {s t : State} (h : ReadOutcome n c s t) :
    ChangesOnlyOutputs s t := by
  obtain ⟨r, d, rfl⟩ | ⟨⟨_, rfl | rfl⟩, _⟩ := h
  · exact done_changesOnlyOutputs s r s.tout s.bout d
  · exact raise_changesOnlyOutputs s _ _
  · exact raise_changesOnlyOutputs s _ _

theorem WriteOutcome.changesOnlyOutputs {α : Type} {n : Nat} {judge : Bits64 → Except ErrorKind α} {c : Ctl} {s t : State}
    (h : WriteOutcome n judge c s t) : ChangesOnlyOutputs s t := by
  obtain ⟨o, bs, d, _, _, hlen, rfl, rfl⟩ | ⟨e, _, _, rfl⟩ := h
  · exact { host := KeepsHostSide.refl s, undef := rfl, buf := .inr ⟨o, bs, hlen, rfl⟩, status := by simp }
  · exact raise_changesOnlyOutputs s _ _

theorem CompletesAs.changesOnlyOutputs {i : Instr} {s t : State} (h : CompletesAs i s t) : ChangesOnlyOutputs s t := by
  cases h with
  | length _ r h => exact h ▸ done_changesOnlyOutputs s r s.tout s.bout s.draws
  | encsel _ _ h =>
    obtain ⟨r, rfl⟩ | rfl := h
    · exact done_changesOnlyOutputs s r s.tout s.bout s.draws
    · exact raise_changesOnlyOutputs s _ _
  | textToBytes _ h =>
    obtain ⟨bs, rfl⟩ | ⟨e, _, rfl⟩ := h
    · exact done_changesOnlyOutputs s s.result s.tout bs s.draws
    · exact raise_changesOnlyOutputs s _ _
  | bytesToText _ x d h => exact h ▸ done_changesOnlyOutputs s s.result x s.bout d
  | read _ _ h => exact h.changesOnlyOutputs
  | writeInt _ _ _ _ _ h => exact h.changesOnlyOutputs
  | writeFloat _ _ _ _ h => exact h.changesOnlyOutputs

theorem exec_changesOnlyOutputs {i : Instr} {s t : State} (h : exec i s = .next t) : ChangesOnlyOutputs s t :=
  (exec_next h).changesOnlyOutputs

theorem exec_undefinedOutcome {i : Instr} {s t : State} {why : UndefinedCase}
    (h : exec i s = .fault (.undefinedOutcome why t)) : t = s.faulted := by
  obtain ⟨_, hf⟩ := exec_faultsAs i s _ h
  injection hf

/-- A state that a command leaves is its next state or the state that `undefined` leaves. -/
theorem endState_eq_some {r : Result} {t : State} :
    endState r = some t ↔ r = .next t ∨ ∃ why, r = .fault (.undefinedOutcome why t) := by
  cases r with
  | next u => simp [endState]
  | refused _ => simp [endState]
  | fault f => cases f <;> simp [endState]

/-- Settles O12: a command that completes changes only outputs, one that does not leaves the faulted state. -/
theorem commandsKeepTheHostsRegisters : Obligations.CommandsKeepTheHostsRegisters := by
  intro i s
  refine ⟨fun t h => ?_, fun t h => (exec_changesOnlyOutputs h).undef, fun why t h => ?_⟩
  · obtain h | ⟨why, h⟩ := endState_eq_some.1 h
    · exact (exec_changesOnlyOutputs h).host
    · exact exec_undefinedOutcome h ▸ keepsHostSide_faulted s
  · exact exec_undefinedOutcome h ▸ State.faulted_undef s

/-! ## Every step keeps the state good -/

theorem ChangesOnlyOutputs.good {s t : State} (h : ChangesOnlyOutputs s t) (hs : s.Good) : t.Good := by
  obtain ⟨hparams, hwf, hbelow, hoff, _, hundef⟩ := hs
  obtain ⟨⟨eparams, elen, _, eoff, _⟩, eundef, hbuf, hstatus⟩ := h
  have hmem : t.buf.wf = true ∧ t.buf.below s.len = true := by
    obtain e | ⟨o, bs, hlen, e⟩ := hbuf <;> rw [e]
    · exact ⟨hwf, hbelow⟩
    · exact ⟨Memory.wf_writeBytes hwf o bs, Memory.below_writeBytes hbelow bs hlen⟩
  unfold State.Good
  rw [eparams, elen, eoff, eundef]
  exact ⟨hparams, hmem.1, hmem.2, hoff, hstatus, hundef⟩

/-- Good says nothing of CMD, CSP, the script, VAL, TIN and BIN. -/
theorem State.Good.latch {s : State} (h : s.Good) (w : CommandWord) : (s.latch w).Good := h
theorem State.Good.withScript {s : State} (h : s.Good) (l : List HostWrite) : (s.withScript l).Good := h
theorem State.Good.hostVal {s : State} (h : s.Good) (v : Bits64) : (s.hostVal v).Good := h
theorem State.Good.hostTin {s : State} (h : s.Good) (x : List CodePoint) : (s.hostTin x).Good := h
theorem State.Good.hostBin {s : State} (h : s.Good) (b : List Byte) : (s.hostBin b).Good := h

/-- A host write of OFF that is not refused is of an offset that fits. -/
theorem hostOff_next {o : Nat} {s t : State} (h : s.hostOff o = .next t) :
    offsetFits s.params o = true ∧ t = { s with off := .holds o } := by
  unfold State.hostOff at h
  split at h
  case isTrue hfits => exact ⟨hfits, by injection h with h; exact h.symm⟩
  case isFalse => cases h

theorem State.Good.hostOff {s t : State} (hs : s.Good) {o : Nat} (h : s.hostOff o = .next t) : t.Good := by
  obtain ⟨hparams, hwf, hbelow, _, hstatus, hundef⟩ := hs
  obtain ⟨hfits, rfl⟩ := hostOff_next h
  exact ⟨hparams, hwf, hbelow, hfits, hstatus, hundef⟩

/-- A word that the host writes to CMD changes only outputs, once it is latched. -/
theorem issue_changesOnlyOutputs {w : CommandWord} {s t : State} (h : s.issue w = .next t) :
    ChangesOnlyOutputs (s.latch w) t := by
  unfold State.issue at h
  split at h
  · exact exec_changesOnlyOutputs h
  · injection h with h
    exact h ▸ raise_changesOnlyOutputs _ _ _

/-- What the next state of a step is made of, by the host's next write. -/
inductive StepsAs (s t : State) : Prop
  | idle (hs : s.script = []) (h : t = s)
  | off (o : Nat) (rest : List HostWrite) (hs : s.script = .off o :: rest) (h : (s.withScript rest).hostOff o = .next t)
  | val (v : Bits64) (rest : List HostWrite) (hs : s.script = .val v :: rest) (h : t = (s.withScript rest).hostVal v)
  | tin (x : List CodePoint) (rest : List HostWrite) (hs : s.script = .tin x :: rest) (h : t = (s.withScript rest).hostTin x)
  | bin (b : List Byte) (rest : List HostWrite) (hs : s.script = .bin b :: rest) (h : t = (s.withScript rest).hostBin b)
  | cmd (w : CommandWord) (rest : List HostWrite) (hs : s.script = .cmd w :: rest) (h : (s.withScript rest).issue w = .next t)

/-- Everything a step that answers a next state can do. -/
theorem step_next {s t : State} (h : step s = .next t) : StepsAs s t := by
  unfold step at h
  split at h
  · cases h
  · split at h
    case h_1 hs => injection h with h; exact .idle hs h.symm
    case h_2 o rest hs => exact .off o rest hs h
    case h_3 v rest hs => injection h with h; exact .val v rest hs h.symm
    case h_4 x rest hs => injection h with h; exact .tin x rest hs h.symm
    case h_5 b rest hs => injection h with h; exact .bin b rest hs h.symm
    case h_6 w rest hs => exact .cmd w rest hs h

/-- Settles O11: a case for each kind of host write; a command changes only outputs, and BUF only below LEN. -/
theorem everyStepKeepsGood : Obligations.EveryStepKeepsGood := by
  intro s t hs h
  cases step_next h with
  | idle _ h => exact h ▸ hs
  | off o rest _ h => exact (hs.withScript rest).hostOff h
  | val v rest _ h => exact h ▸ (hs.withScript rest).hostVal v
  | tin x rest _ h => exact h ▸ (hs.withScript rest).hostTin x
  | bin b rest _ h => exact h ▸ (hs.withScript rest).hostBin b
  | cmd w rest _ h => exact (issue_changesOnlyOutputs h).good ((hs.withScript rest).latch w)

end Sys2Proof.Machine
end

section
/-! BUF reads what was written last (20_memory R44): MemoryReadsTheLatestWrite. -/

namespace Sys2Proof.Machine

/-- MemWrite then MemRead of the same bytes: the first byte is out of reach of the rest of the write. -/
theorem Memory.readBytes_writeBytes {m : Memory} (h : m.wf = true) (a : Nat) (bs : List Byte) :
    (m.writeBytes a bs).readBytes a bs.length = bs := by
  induction bs generalizing m a with
  | nil => rfl
  | cons b bs ih =>
    have hfirst : ((m.write a b).writeBytes (a + 1) bs).read a = b := by
      rw [Memory.read_writeBytes_outside _ _ _ (.inl (Nat.lt_succ_self a)), Memory.read_write h, if_pos rfl]
    rw [Memory.writeBytes, List.length_cons, Memory.readBytes, hfirst, ih (Memory.wf_write h a b)]

/-- Settles O19, by induction on the byte list; the frame needs no canonical form. -/
theorem memoryReadsTheLatestWrite : Obligations.MemoryReadsTheLatestWrite :=
  fun m a bs h => ⟨Memory.readBytes_writeBytes h a bs, fun _ hx => Memory.read_writeBytes_outside m a bs hx⟩

end Sys2Proof.Machine
end

section
/-! binary64 patterns and the numbers they stand for (45_float R171, 00_scope R7): Binary64LayoutIsAsStated,
IntegersAreExactInBinary64. -/

namespace Sys2Proof.Machine

/-! ## The fields of a pattern, as numbers -/

theorem bitField_exp64 (b : Bits64) : bitField b.toNat 62 52 = exp64 b := by
  simp [bitField, exp64, BitVec.extractLsb'_toNat, Nat.shiftRight_eq_div_pow]

theorem bitField_frac64 (b : Bits64) : bitField b.toNat 51 0 = frac64 b := by
  simp [bitField, frac64, BitVec.extractLsb'_toNat]

theorem bitField_sign64 (b : Bits64) : bitField b.toNat 63 63 = (sign64 b).toNat := by
  rw [sign64, BitVec.getLsbD, Nat.testBit_eq_decide_div_mod_eq, bitField, Nat.sub_self, Nat.zero_add, pow_one]
  rcases Nat.mod_two_eq_zero_or_one (b.toNat / 2 ^ 63) with h | h <;> rw [h] <;> rfl

theorem sign64_eq_iff (b : Bits64) (neg : Bool) : sign64 b = neg ↔ bitField b.toNat 63 63 = neg.toNat := by
  rw [bitField_sign64]
  cases sign64 b <;> cases neg <;> decide

/-! ## `f64` by the kind of pattern -/

theorem f64_eq_nan_iff (b : Bits64) : f64 b = .nan ↔ exp64 b = 2047 ∧ frac64 b ≠ 0 := by
  unfold f64
  split_ifs <;> simp_all

theorem f64_eq_inf_iff (b : Bits64) (neg : Bool) : f64 b = .inf neg ↔ exp64 b = 2047 ∧ frac64 b = 0 ∧ sign64 b = neg := by
  unfold f64
  split_ifs <;> simp_all

/-- A finite pattern, subnormal or normal, with its units of `2^-1074`. -/
theorem f64_eq_fin_iff (b : Bits64) (neg : Bool) (units : Nat) :
    f64 b = .fin neg units ↔ exp64 b ≠ 2047 ∧ sign64 b = neg ∧
      units = if exp64 b = 0 then frac64 b else (2 ^ 52 + frac64 b) * 2 ^ (exp64 b - 1) := by
  by_cases hspecial : exp64 b = 2047
  · refine iff_of_false (fun h => ?_) (fun h => h.1 hspecial)
    rw [f64, if_pos hspecial] at h
    split_ifs at h
  · by_cases hsub : exp64 b = 0
    · rw [f64, if_neg hspecial, if_pos hsub, if_pos hsub]
      simp [hspecial, eq_comm]
    · rw [f64, if_neg hspecial, if_neg hsub, if_neg hsub]
      simp [hspecial, eq_comm]

/-- R171's value of a finite pattern, from the units the model holds it in (log 13). -/
theorem value64_of_f64 {b : Bits64} {neg : Bool} {units : Nat} (h : f64 b = .fin neg units) :
    value64 b = signFactor neg.toNat * units * 2 ^ (-1074 : ℤ) := by
  obtain ⟨_, rfl, rfl⟩ := (f64_eq_fin_iff b neg units).1 h
  simp only [value64, bitField_exp64, bitField_frac64, bitField_sign64]
  split_ifs with he
  · rfl
  · have hscale : ((exp64 b : ℤ) - 1075) = ((exp64 b - 1 : ℕ) : ℤ) + (-1074) := by omega
    rw [hscale, zpow_add₀ two_ne_zero, zpow_natCast, Nat.cast_mul, Nat.cast_add, Nat.cast_pow, Nat.cast_pow,
      Nat.cast_ofNat]
    simp only [mul_assoc]

theorem finite64_of_f64 {b : Bits64} {neg : Bool} {units : Nat} (h : f64 b = .fin neg units) : finite64 b := by
  rw [finite64, bitField_exp64]
  exact ((f64_eq_fin_iff b neg units).1 h).1

/-- Settles O22, by the three kinds of pattern. -/
theorem binary64LayoutIsAsStated : Obligations.Binary64LayoutIsAsStated := by
  intro b
  refine ⟨?_, fun neg => ?_, fun neg units h => ⟨finite64_of_f64 h, value64_of_f64 h, ?_⟩⟩
  · rw [f64_eq_nan_iff, nanPattern64, bitField_exp64, bitField_frac64]
  · rw [f64_eq_inf_iff, bitField_exp64, bitField_frac64, sign64_eq_iff]
  · exact (sign64_eq_iff b neg).1 ((f64_eq_fin_iff b neg units).1 h).2.1

/-! ## `bits64` is exact -/

theorem toNat_pack64 (neg : Bool) {e f : Nat} (he : e < 2 ^ 11) (hf : f < 2 ^ 52) :
    (pack64 neg e f).toNat = neg.toNat * 2 ^ 63 + e * 2 ^ 52 + f := by
  have hlow : ((BitVec.ofNat 11 e ++ BitVec.ofNat 52 f : BitVec 63)).toNat = e * 2 ^ 52 + f := by
    rw [BitVec.toNat_append, BitVec.toNat_ofNat, BitVec.toNat_ofNat, Nat.mod_eq_of_lt he, Nat.mod_eq_of_lt hf,
      ← Nat.shiftLeft_add_eq_or_of_lt hf, Nat.shiftLeft_eq]
  have hlt : e * 2 ^ 52 + f < 2 ^ 63 := by omega
  rw [pack64, BitVec.toNat_append, hlow, BitVec.toNat_ofBool, ← Nat.shiftLeft_add_eq_or_of_lt hlt, Nat.shiftLeft_eq,
    Nat.add_assoc]

theorem exp64_pack64 (neg : Bool) {e f : Nat} (he : e < 2 ^ 11) (hf : f < 2 ^ 52) : exp64 (pack64 neg e f) = e := by
  rw [← bitField_exp64, toNat_pack64 neg he hf, bitField]
  cases neg <;> simp <;> omega

theorem frac64_pack64 (neg : Bool) {e f : Nat} (he : e < 2 ^ 11) (hf : f < 2 ^ 52) : frac64 (pack64 neg e f) = f := by
  rw [← bitField_frac64, toNat_pack64 neg he hf, bitField]
  cases neg <;> simp <;> omega

theorem sign64_pack64 (neg : Bool) {e f : Nat} (he : e < 2 ^ 11) (hf : f < 2 ^ 52) : sign64 (pack64 neg e f) = neg := by
  rw [sign64_eq_iff, toNat_pack64 neg he hf, bitField]
  cases neg <;> simp <;> omega

/-- `bits64` of a number below the least normal one: the subnormal pattern. -/
theorem f64_bits64_subnormal (neg : Bool) {units : Nat} (h : units < 2 ^ 52) : f64 (bits64 neg units) = .fin neg units := by
  have he : 0 < 2 ^ 11 := by decide
  rw [bits64, if_pos h, f64_eq_fin_iff, exp64_pack64 neg he h, frac64_pack64 neg he h, sign64_pack64 neg he h]
  exact ⟨by decide, rfl, rfl⟩

theorem log2_mul_two_pow {m : Nat} (hm : m ≠ 0) (k : Nat) : (m * 2 ^ k).log2 = m.log2 + k := by
  obtain ⟨hlo, hhi⟩ := (Nat.log2_eq_iff hm).1 rfl
  rw [Nat.log2_eq_iff (Nat.mul_ne_zero hm (Nat.two_pow_pos k).ne'), Nat.add_right_comm, pow_add, pow_add]
  exact ⟨Nat.mul_le_mul_right _ hlo, Nat.mul_lt_mul_of_pos_right hhi (Nat.two_pow_pos k)⟩

/-- `bits64` of a number with its 53 leading bits `m` and `k` zero bits after them: the normal pattern of exponent `k + 1`. -/
theorem f64_bits64_normal (neg : Bool) {m k : Nat} (hlo : 2 ^ 52 ≤ m) (hhi : m < 2 ^ 53) (hk : k ≤ 2045) :
    f64 (bits64 neg (m * 2 ^ k)) = .fin neg (m * 2 ^ k) := by
  have hpos : 0 < 2 ^ k := Nat.two_pow_pos k
  have hbig : ¬ m * 2 ^ k < 2 ^ 52 := Nat.not_lt.2 (hlo.trans (Nat.le_mul_of_pos_right m hpos))
  have hlog : (m * 2 ^ k).log2 = 52 + k := by
    rw [log2_mul_two_pow (by omega), (Nat.log2_eq_iff (by omega)).2 ⟨hlo, hhi⟩]
  have he : k + 1 < 2 ^ 11 := by omega
  have hf : m - 2 ^ 52 < 2 ^ 52 := by omega
  have hbits : bits64 neg (m * 2 ^ k) = pack64 neg (k + 1) (m - 2 ^ 52) := by
    simp only [bits64, if_neg hbig, hlog, show 52 + k - 51 = k + 1 by omega, Nat.add_sub_cancel, Nat.mul_div_cancel m hpos]
  rw [hbits, f64_eq_fin_iff, exp64_pack64 neg he hf, frac64_pack64 neg he hf, sign64_pack64 neg he hf]
  refine ⟨by omega, rfl, ?_⟩
  rw [if_neg (Nat.succ_ne_zero k), Nat.add_sub_cancel' hlo, Nat.add_sub_cancel]

/-- `bits64` is exact for whatever leaves no bit below its 53 leading ones and is not too large. -/
theorem f64_bits64 (neg : Bool) {units : Nat} (hdvd : 2 ^ (units.log2 - 52) ∣ units) (hlog : units.log2 ≤ 2097) :
    f64 (bits64 neg units) = .fin neg units := by
  by_cases hsub : units < 2 ^ 52
  · exact f64_bits64_subnormal neg hsub
  obtain ⟨m, hm⟩ := hdvd
  have hne : units ≠ 0 := by omega
  have hL : 52 ≤ units.log2 := (Nat.le_log2 hne).2 (Nat.not_lt.1 hsub)
  obtain ⟨hlo, hhi⟩ := (Nat.log2_eq_iff hne).1 rfl
  have hpos : 0 < 2 ^ (units.log2 - 52) := Nat.two_pow_pos _
  have hmlo : 2 ^ 52 ≤ m := by
    refine Nat.le_of_mul_le_mul_left ?_ hpos
    rwa [← hm, ← pow_add, Nat.sub_add_cancel hL]
  have hmhi : m < 2 ^ 53 := by
    refine Nat.lt_of_mul_lt_mul_left (a := 2 ^ (units.log2 - 52)) ?_
    rwa [← hm, ← pow_add, show units.log2 - 52 + 53 = units.log2 + 1 by omega]
  have h := f64_bits64_normal neg hmlo hmhi (k := units.log2 - 52) (by omega)
  rwa [Nat.mul_comm, ← hm] at h

/-- A number of at most 53 bits, scaled by a power of two, is a binary64 number. -/
theorem f64_bits64_mul_pow (neg : Bool) {m k : Nat} (hm : m < 2 ^ 53) (hk : k ≤ 2045) :
    f64 (bits64 neg (m * 2 ^ k)) = .fin neg (m * 2 ^ k) := by
  by_cases h0 : m = 0
  · rw [h0, Nat.zero_mul]
    exact f64_bits64_subnormal neg (by decide)
  have hlog : (m * 2 ^ k).log2 = m.log2 + k := log2_mul_two_pow h0 k
  have hm52 : m.log2 < 53 := (Nat.log2_lt h0).2 hm
  refine f64_bits64 neg ?_ (by omega)
  exact Dvd.dvd.mul_left (pow_dvd_pow 2 (by omega)) m

theorem f64_bits64Int {x : ℤ} (hx : x.natAbs ≤ 2 ^ 53) : f64 (bits64Int x) = .fin (x < 0) (x.natAbs * oneUnits) := by
  unfold bits64Int oneUnits
  obtain hlt | heq := Nat.lt_or_eq_of_le hx
  · exact f64_bits64_mul_pow _ hlt (by decide)
  · rw [heq, show 2 ^ 53 * 2 ^ 1074 = 2 ^ 52 * 2 ^ 1075 by rw [← pow_add, ← pow_add]]
    exact f64_bits64_mul_pow _ (by decide) (by decide)

theorem signFactor_mul_natAbs (x : ℤ) : signFactor (decide (x < 0)).toNat * x.natAbs = x := by
  by_cases h : x < 0
  · simp [signFactor, h, abs_of_neg h, Nat.cast_natAbs]
  · simp [signFactor, h, abs_of_nonneg (not_lt.1 h), Nat.cast_natAbs]

theorem isBits64_bits64Int {x : ℤ} (hx : x.natAbs ≤ 2 ^ 53) : isBits64 x (bits64Int x) := by
  have h := f64_bits64Int hx
  refine ⟨finite64_of_f64 h, ?_, fun h0 => ?_⟩
  · have hunit : (oneUnits : ℚ) * 2 ^ (-1074 : ℤ) = 1 := by
      rw [oneUnits, Nat.cast_pow, Nat.cast_ofNat]
      exact mul_inv_cancel₀ (pow_ne_zero 1074 two_ne_zero)
    rw [value64_of_f64 h, Nat.cast_mul, mul_assoc, mul_assoc, hunit, mul_one]
    exact signFactor_mul_natAbs x
  · obtain rfl : x = 0 := by exact_mod_cast h0
    rw [bits64Int, Int.natAbs_zero, Nat.zero_mul]
    decide

/-- Settles O23: an integer is its magnitude times the `2^1074` units of 1, and 2^53 is `2^52 * 2`. -/
theorem integersAreExactInBinary64 : Obligations.IntegersAreExactInBinary64 := by
  intro x hx
  refine isBits64_bits64Int ?_
  rw [← Int.natCast_natAbs] at hx
  exact_mod_cast hx

end Sys2Proof.Machine
end

section
/-! Steps and reset (70_reset R230 to R235, 10_state R33, R36; 60_exceptions R214): StepRunsTheDecodedCommand,
HostWritesReachTheirRegisters, PositionCountsCommands, FaultedBlockTakesNoStep, ResetLeavesTheSpecsValues. -/

namespace Sys2Proof.Machine

/-! ## One equation for each kind of step -/

theorem step_of_undef {s : State} (hu : s.undef = true) : step s = .fault .blockFaulted := by
  simp only [step, hu, if_true]

theorem step_idle {s : State} (hu : s.undef = false) (hs : s.script = []) : step s = .next s := by
  simp only [step, hu, hs, Bool.false_eq_true, if_false]

theorem step_off {s : State} {o : Nat} {rest : List HostWrite} (hu : s.undef = false) (hs : s.script = .off o :: rest) :
    step s = (s.withScript rest).hostOff o := by
  simp only [step, hu, hs, Bool.false_eq_true, if_false]

theorem step_val {s : State} {v : Bits64} {rest : List HostWrite} (hu : s.undef = false) (hs : s.script = .val v :: rest) :
    step s = .next ((s.withScript rest).hostVal v) := by
  simp only [step, hu, hs, Bool.false_eq_true, if_false]

theorem step_tin {s : State} {x : List CodePoint} {rest : List HostWrite} (hu : s.undef = false)
    (hs : s.script = .tin x :: rest) : step s = .next ((s.withScript rest).hostTin x) := by
  simp only [step, hu, hs, Bool.false_eq_true, if_false]

theorem step_bin {s : State} {b : List Byte} {rest : List HostWrite} (hu : s.undef = false)
    (hs : s.script = .bin b :: rest) : step s = .next ((s.withScript rest).hostBin b) := by
  simp only [step, hu, hs, Bool.false_eq_true, if_false]

theorem step_cmd {s : State} {w : CommandWord} {rest : List HostWrite} (hu : s.undef = false)
    (hs : s.script = .cmd w :: rest) : step s = (s.withScript rest).issue w := by
  simp only [step, hu, hs, Bool.false_eq_true, if_false]

theorem issue_of_decode_ok {w : CommandWord} {i : Instr} (h : decode w = .ok i) (s : State) :
    s.issue w = exec i (s.latch w) := by
  simp only [State.issue, h]

theorem issue_of_decode_error {w : CommandWord} {e : Illegal} (h : decode w = .error e) (s : State) :
    s.issue w = .next (s.latch w).illegalCommand := by
  simp only [State.issue, h]

theorem hostOff_eq (s : State) (o : Nat) :
    s.hostOff o =
      if o < 2 ^ s.params.addrW then .next { s with off := .holds o } else .refused (.offsetNotPresentable o) := by
  unfold State.hostOff offsetFits
  by_cases h : o < 2 ^ s.params.addrW <;> simp only [h, decide_true, decide_false, if_true, if_false, Bool.false_eq_true]

/-- Settles O4: the step issues the word, and issuing a word that decodes runs its command on the latched state. -/
theorem stepRunsTheDecodedCommand : Obligations.StepRunsTheDecodedCommand := by
  intro s w rest i hu hs hd
  rw [step_cmd hu hs, issue_of_decode_ok hd]
  rfl

/-- Settles O6: each clause is the step's equation for that host write. -/
theorem hostWritesReachTheirRegisters : Obligations.HostWritesReachTheirRegisters := by
  intro s hu
  refine ⟨step_idle hu, fun v rest hs => step_val hu hs, fun x rest hs => step_tin hu hs, fun b rest hs => step_bin hu hs,
    fun o rest hs => ?_⟩
  exact (step_off hu hs).trans (hostOff_eq _ o)

/-- Settles O8. -/
theorem faultedBlockTakesNoStep : Obligations.FaultedBlockTakesNoStep := by
  intro s t hu
  rw [step_of_undef hu]
  exact ⟨rfl, nofun⟩

/-! ## CSP and the script -/

/-- Whatever end a word written to CMD comes to, it keeps the host's side of the latched state. -/
theorem issue_keepsHostSide {w : CommandWord} {s t : State} (h : endState (s.issue w) = some t) :
    KeepsHostSide (s.latch w) t := by
  cases hd : decode w with
  | ok i =>
    rw [issue_of_decode_ok hd] at h
    exact (commandsKeepTheHostsRegisters i (s.latch w)).1 t h
  | error e =>
    rw [issue_of_decode_error hd] at h
    cases h
    exact keepsHostSide_raise _ _ _

/-- A host write of OFF leaves CSP and the script alone. -/
theorem hostOff_endState {o : Nat} {s t : State} (h : endState (s.hostOff o) = some t) :
    t.script = s.script ∧ t.csp = s.csp := by
  obtain h | ⟨why, h⟩ := endState_eq_some.1 h
  · obtain ⟨_, rfl⟩ := hostOff_next h
    exact ⟨rfl, rfl⟩
  · rw [hostOff_eq] at h
    split at h <;> cases h

/-- Settles O7, by the host's next write: only CMD's latch moves CSP, and what follows the latch keeps the host's side. -/
theorem positionCountsCommands : Obligations.PositionCountsCommands := by
  intro s t h
  cases hu : s.undef with
  | true =>
    rw [step_of_undef hu] at h
    cases h
  | false =>
    cases hs : s.script with
    | nil =>
      rw [step_idle hu hs] at h
      cases h
      exact ⟨hs, rfl⟩
    | cons write rest =>
      cases write with
      | off o =>
        rw [step_off hu hs] at h
        exact hostOff_endState h
      | val v =>
        rw [step_val hu hs] at h
        cases h
        exact ⟨rfl, rfl⟩
      | tin x =>
        rw [step_tin hu hs] at h
        cases h
        exact ⟨rfl, rfl⟩
      | bin b =>
        rw [step_bin hu hs] at h
        cases h
        exact ⟨rfl, rfl⟩
      | cmd w =>
        rw [step_cmd hu hs] at h
        obtain ⟨_, _, _, _, _, _, _, hcsp, hscript⟩ := issue_keepsHostSide h
        exact ⟨hscript, hcsp⟩

/-! ## Reset -/

/-- The memory made of a byte list reads as the list from its first address on, and as 0 elsewhere. -/
theorem Memory.read_ofBytesFrom (k : Nat) (bs : List Byte) (a : Nat) :
    (Memory.ofBytesFrom k bs).read a = if k ≤ a then (bs[a - k]?).getD 0 else 0 := by
  induction bs generalizing k with
  | nil => simp [Memory.ofBytesFrom]
  | cons b bs ih =>
    rw [Memory.ofBytesFrom, Memory.read_cons, ih]
    rcases Nat.lt_trichotomy a k with hlt | rfl | hgt
    · simp [show ¬ k = a by omega, show ¬ k ≤ a by omega, show ¬ k < a by omega]
    · simpa using Eq.symm
    · obtain ⟨j, rfl⟩ := Nat.exists_eq_add_of_lt hgt
      simp [show ¬ k = k + j + 1 by omega, show k ≤ k + j + 1 by omega, show k + j + 1 - k = j + 1 by omega,
        show k + j + 1 - (k + 1) = j by omega]

theorem Memory.ofBytesFrom_replicate_zero (k n : Nat) : Memory.ofBytesFrom k (List.replicate n 0) = [] := by
  induction n generalizing k with
  | zero => rfl
  | succ n ih => rw [List.replicate_succ, Memory.ofBytesFrom, ih]; exact if_pos rfl

theorem resetFromCount_eq (p : Params) (n : Nat) :
    State.resetFromCount p n = State.resetFromImage p (List.replicate n 0) := by
  simp only [State.resetFromCount, State.resetFromImage, Memory.ofBytes, Memory.ofBytesFrom_replicate_zero,
    List.length_replicate, Memory.ofBytesFrom]

/-- Settles O9: a count's zeros are not listed in BUF, and BUF made of an image reads as the image. -/
theorem resetLeavesTheSpecsValues : Obligations.ResetLeavesTheSpecsValues := by
  intro p
  refine ⟨resetFromCount_eq p, fun img => ⟨rfl, fun a _ => ?_, rfl, rfl, rfl, rfl, rfl, rfl, rfl, rfl, rfl, rfl, rfl⟩⟩
  exact (Memory.read_ofBytesFrom 0 img a).trans (if_pos (Nat.zero_le a))

end Sys2Proof.Machine
end

section
/-! What a command writes and reads (10_state R20 to R34, 60_exceptions R201, R204, 70_reset R233): EachOutputHasItsOwnWriters,
ErrorsChangeOnlyStatusAndOwnStream, CommandsIgnoreTheOutputRegisters. -/

namespace Sys2Proof.Machine

/-! ## Each output has its own writers -/

theorem ReadOutcome.frame {n : Nat} {c : Ctl} {s t : State} (h : ReadOutcome n c s t) :
    t.buf = s.buf ∧ t.tout = s.tout ∧ t.bout = s.bout := by
  obtain ⟨r, d, rfl⟩ | ⟨⟨_, rfl | rfl⟩, _⟩ := h <;> exact ⟨rfl, rfl, rfl⟩

theorem WriteOutcome.frame {α : Type} {n : Nat} {judge : Bits64 → Except ErrorKind α} {c : Ctl} {s t : State}
    (h : WriteOutcome n judge c s t) :
    t.result = s.result ∧ t.tout = s.tout ∧ t.bout = s.bout ∧ (c.ov = false → t.buf = s.buf) ∧
      ∀ o, s.off = .holds o → SameOutside s.buf t.buf o n := by
  obtain ⟨o, bs, d, hov, ho, _, rfl, rfl⟩ | ⟨e, _, _, rfl⟩ := h
  · refine ⟨rfl, rfl, rfl, fun h => absurd (hov.symm.trans h) nofun, fun o' ho' a ha => ?_⟩
    obtain rfl : o = o' := OperandReg.holds.inj (ho.symm.trans ho')
    exact Memory.read_writeBytes_outside _ _ _ ha
  · exact ⟨rfl, rfl, rfl, fun _ => rfl, fun _ _ _ _ => rfl⟩

/-- Settles O13, by the command's class. -/
theorem eachOutputHasItsOwnWriters : Obligations.EachOutputHasItsOwnWriters := by
  intro i s t h
  cases exec_next h with
  | length hc r h => simp [hc, h]
  | encsel hc _ h => obtain ⟨r, rfl⟩ | rfl := h <;> simp [hc]
  | textToBytes hc h => obtain ⟨bs, rfl⟩ | ⟨e, _, rfl⟩ := h <;> simp [hc]
  | bytesToText hc x d h => simp [hc, h]
  | read n hc h => simpa only [hc] using h.frame
  | writeInt n lo hi hc _ h => simpa only [hc] using h.frame
  | writeFloat n m hc _ h => simpa only [hc] using h.frame

/-! ## Errors -/

theorem ReadOutcome.eq_of_status_ne_zero {n : Nat} {c : Ctl} {s t : State} (h : ReadOutcome n c s t) (ht : t.status ≠ 0) :
    t = { s with status := t.status } := by
  obtain ⟨r, d, rfl⟩ | ⟨⟨_, rfl | rfl⟩, _⟩ := h
  · exact absurd rfl ht
  · rfl
  · rfl

theorem WriteOutcome.eq_of_status_ne_zero {α : Type} {n : Nat} {judge : Bits64 → Except ErrorKind α} {c : Ctl} {s t : State}
    (h : WriteOutcome n judge c s t) (ht : t.status ≠ 0) : t = { s with status := t.status } := by
  obtain ⟨o, bs, d, _, _, _, _, rfl⟩ | ⟨e, _, _, rfl⟩ := h
  · exact absurd rfl ht
  · rfl

/-- Settles O15: of the ends of each class, only `raise` leaves a STATUS other than 0. -/
theorem errorsChangeOnlyStatusAndOwnStream : Obligations.ErrorsChangeOnlyStatusAndOwnStream := by
  intro i s t h ht
  cases exec_next h with
  | length hc r h => exact absurd (h ▸ rfl) ht
  | encsel hc _ h =>
    obtain ⟨r, rfl⟩ | rfl := h
    · exact absurd rfl ht
    · simp [hc, State.raise, State.setStatus]
  | textToBytes hc h =>
    obtain ⟨bs, rfl⟩ | ⟨e, _, rfl⟩ := h
    · exact absurd rfl ht
    · simp [hc, State.raise, State.setStatus, State.setBout]
  | bytesToText hc x d h => exact absurd (h ▸ rfl) ht
  | read n hc h => simpa [hc] using h.eq_of_status_ne_zero ht
  | writeInt n lo hi hc _ h => simpa [hc] using h.eq_of_status_ne_zero ht
  | writeFloat n m hc _ h => simpa [hc] using h.eq_of_status_ne_zero ht

/-! ## No command reads an output register -/

/-- Two states that may differ in RESULT, STATUS, TOUT and BOUT only, as far as a command can see. -/
structure SameInputs (s s' : State) : Prop where
  params : s'.params = s.params
  len : s'.len = s.len
  buf : s'.buf = s.buf
  off : s'.off = s.off
  val : s'.val = s.val
  tin : s'.tin = s.tin
  bin : s'.bin = s.bin
  draws : s'.draws = s.draws

/-- From `s` to `t` and from `s'` to `t'` the same was written: STATUS, BUF and the count of draws agree, and each of RESULT, TOUT
and BOUT agrees or was left alone both times. -/
structure WritesAlike (s s' t t' : State) : Prop where
  status : t'.status = t.status
  buf : t'.buf = t.buf
  draws : t'.draws = t.draws
  result : t'.result = t.result ∨ (t.result = s.result ∧ t'.result = s'.result)
  tout : t'.tout = t.tout ∨ (t.tout = s.tout ∧ t'.tout = s'.tout)
  bout : t'.bout = t.bout ∨ (t.bout = s.bout ∧ t'.bout = s'.bout)

/-- If the one answer is a next state, so is the other, with the same written. -/
def CompletesAlike (s s' : State) (r r' : Result) : Prop := ∀ t, r = .next t → ∃ t', r' = .next t' ∧ WritesAlike s s' t t'

/-- Two answers of a check: the same value, or ends of the command that are alike. -/
def ChecksAlike {α : Type} (s s' : State) (x x' : Except Result α) : Prop :=
  (∃ v, x = .ok v ∧ x' = .ok v) ∨ ∃ r r', x = .error r ∧ x' = .error r' ∧ CompletesAlike s s' r r'

section
variable {s s' : State}

theorem completesAlike_next {t t' : State} (h : WritesAlike s s' t t') : CompletesAlike s s' (.next t) (.next t') := by
  rintro _ ⟨⟩
  exact ⟨t', rfl, h⟩

theorem completesAlike_undefined (why : UndefinedCase) (r' : Result) : CompletesAlike s s' (s.undefinedOutcome why) r' := nofun

/-! ### What a command reads -/

theorem SameInputs.memRead_eq (h : SameInputs s s') (a n : Nat) : s'.memRead a n = s.memRead a n := by
  unfold State.memRead
  rw [h.buf]

theorem SameInputs.drawNaN64_eq (h : SameInputs s s') : s'.drawNaN64 = s.drawNaN64 := by
  rw [State.drawNaN64, State.drawNaN64, h.draws]

theorem SameInputs.drawNaN32_eq (h : SameInputs s s') : s'.drawNaN32 = s.drawNaN32 := by
  rw [State.drawNaN32, State.drawNaN32, h.draws]

/-! ### The ends of a command -/

theorem SameInputs.raise_alike (h : SameInputs s s') (o : OutStream) (e : ErrorKind) :
    WritesAlike s s' (s.raise o e) (s'.raise o e) := by
  cases o <;> constructor <;> simp [h.buf, h.draws]

theorem SameInputs.setResult_alike (h : SameInputs s s') (r : Bits64) (c : Bool) :
    WritesAlike s s' ((s.setResult r).drewIf c).done ((s'.setResult r).drewIf c).done := by
  constructor <;> simp [h.buf, h.draws]

theorem SameInputs.memWrite_alike (h : SameInputs s s') (o : Nat) (bs : List Byte) (c : Bool) :
    WritesAlike s s' ((s.memWrite o bs).drewIf c).done ((s'.memWrite o bs).drewIf c).done := by
  constructor <;> simp [h.buf, h.draws]

theorem SameInputs.setBout_alike (h : SameInputs s s') (bs : List Byte) :
    WritesAlike s s' (s.setBout bs).done (s'.setBout bs).done := by
  constructor <;> simp [h.buf, h.draws]

theorem SameInputs.setTout_alike (h : SameInputs s s') (x : List CodePoint) (c : Bool) :
    WritesAlike s s' ((s.setTout x).drewIf c).done ((s'.setTout x).drewIf c).done := by
  constructor <;> simp [h.buf, h.draws]

theorem SameInputs.drawnResult_alike (h : SameInputs s s') : WritesAlike s s' s.drawnResult s'.drawnResult := by
  rw [State.drawnResult, State.drawnResult, h.draws]
  exact h.setResult_alike _ true

theorem SameInputs.drawnBytes_alike (h : SameInputs s s') (o n : Nat) : WritesAlike s s' (s.drawnBytes o n) (s'.drawnBytes o n) := by
  rw [State.drawnBytes, State.drawnBytes, h.draws]
  exact h.memWrite_alike o _ true

/-! ### Operands and checks -/

theorem checksAlike_ok {α : Type} (v : α) : ChecksAlike s s' (.ok v) (.ok v) := .inl ⟨v, rfl, rfl⟩

theorem checksAlike_error {α : Type} {r r' : Result} (h : CompletesAlike s s' r r') :
    ChecksAlike (α := α) s s' (.error r) (.error r') := .inr ⟨r, r', rfl, rfl, h⟩

theorem readOperand_alike {α : Type} (n : OperandName) (r : OperandReg α) :
    ChecksAlike s s' (readOperand n r s) (readOperand n r s') := by
  cases r with
  | noValue => exact checksAlike_error (completesAlike_undefined _ _)
  | holds v => exact checksAlike_ok v

theorem readIf_alike {α : Type} (p : Bool) (n : OperandName) (r : OperandReg α) :
    ChecksAlike s s' (readIf p n r s) (readIf p n r s') := by
  cases p with
  | false => exact checksAlike_ok none
  | true =>
    cases r with
    | noValue => exact checksAlike_error (completesAlike_undefined _ _)
    | holds v => exact checksAlike_ok (some v)

theorem SameInputs.offsetOperand_alike (h : SameInputs s s') (c : Ctl) :
    ChecksAlike s s' (offsetOperand c s) (offsetOperand c s') := by
  rw [offsetOperand, offsetOperand, h.off]
  exact readIf_alike _ _ _

theorem SameInputs.valueOperand_alike (h : SameInputs s s') (c : Ctl) : ChecksAlike s s' (valueOperand c s) (valueOperand c s') := by
  rw [valueOperand, valueOperand, h.val]
  exact readIf_alike _ _ _

theorem SameInputs.nameOperand_alike (h : SameInputs s s') (c : Ctl) : ChecksAlike s s' (nameOperand c s) (nameOperand c s') := by
  rw [nameOperand, nameOperand, h.tin]
  exact readIf_alike _ _ _

theorem SameInputs.textOperand_alike (h : SameInputs s s') : ChecksAlike s s' (textOperand s) (textOperand s') := by
  rw [textOperand, textOperand, h.tin]
  exact readOperand_alike _ _

theorem SameInputs.bytesOperand_alike (h : SameInputs s s') : ChecksAlike s s' (bytesOperand s) (bytesOperand s') := by
  rw [bytesOperand, bytesOperand, h.bin]
  exact readOperand_alike _ _

theorem SameInputs.badRead_alike (h : SameInputs s s') (checked : Bool) (e : ErrorKind) :
    CompletesAlike s s' (.next (if checked then s.raise .none e else s.drawnResult))
      (.next (if checked then s'.raise .none e else s'.drawnResult)) := by
  cases checked
  · exact completesAlike_next h.drawnResult_alike
  · exact completesAlike_next (h.raise_alike .none e)

theorem SameInputs.readCheck_alike (h : SameInputs s s') (n : Nat) (c : Ctl) :
    ChecksAlike s s' (readCheck n c s) (readCheck n c s') := by
  unfold readCheck
  obtain ⟨off, hx, hx'⟩ | ⟨r, r', hx, hx', hr⟩ := h.offsetOperand_alike c <;> rw [hx, hx']
  · cases off with
    | none => exact checksAlike_error (h.badRead_alike _ _)
    | some o =>
      dsimp only
      rw [h.len]
      split
      · exact checksAlike_ok o
      · exact checksAlike_error (h.badRead_alike _ _)
  · exact checksAlike_error hr

section
variable {α : Type} (n : Nat) (judge : Bits64 → Except ErrorKind α)

theorem SameInputs.checkedWrite_alike (h : SameInputs s s') (off : Option Nat) (val : Option Bits64) :
    ChecksAlike s s' (checkedWrite n judge off val s) (checkedWrite n judge off val s') := by
  have hraise (e : ErrorKind) : ChecksAlike (α := Nat × α) s s' (.error (.next (s.raise .none e)))
      (.error (.next (s'.raise .none e))) := checksAlike_error (completesAlike_next (h.raise_alike .none e))
  unfold checkedWrite
  cases off with
  | none => exact hraise _
  | some o =>
    cases val with
    | none => exact hraise _
    | some b =>
      dsimp only
      rw [h.len]
      split
      · cases judge b with
        | error e => exact hraise e
        | ok x => exact checksAlike_ok (o, x)
      · exact hraise _

theorem SameInputs.uncheckedWrite_alike (h : SameInputs s s') (off : Option Nat) (val : Option Bits64) :
    ChecksAlike s s' (uncheckedWrite n judge off val s) (uncheckedWrite n judge off val s') := by
  unfold uncheckedWrite
  cases off with
  | none => exact checksAlike_error (completesAlike_undefined _ _)
  | some o =>
    have hdrawn : ChecksAlike (α := Nat × α) s s' (.error (.next (s.drawnBytes o n))) (.error (.next (s'.drawnBytes o n))) :=
      checksAlike_error (completesAlike_next (h.drawnBytes_alike o n))
    dsimp only
    rw [h.len]
    split
    · cases val with
      | none => exact hdrawn
      | some b =>
        dsimp only
        cases judge b with
        | error e => exact hdrawn
        | ok x => exact checksAlike_ok (o, x)
    · exact checksAlike_error (completesAlike_undefined _ _)

theorem SameInputs.writeCheck_alike (h : SameInputs s s') (c : Ctl) :
    ChecksAlike s s' (writeCheck n judge c s) (writeCheck n judge c s') := by
  unfold writeCheck
  obtain ⟨off, hx, hx'⟩ | ⟨r, r', hx, hx', hr⟩ := h.offsetOperand_alike c <;> rw [hx, hx']
  · obtain ⟨val, hx, hx'⟩ | ⟨r, r', hx, hx', hr⟩ := h.valueOperand_alike c <;> rw [hx, hx']
    · dsimp only
      split
      · exact h.checkedWrite_alike n judge off val
      · exact h.uncheckedWrite_alike n judge off val
    · exact checksAlike_error hr
  · exact checksAlike_error hr

end

/-! ### Commands -/

theorem SameInputs.readInt_alike (h : SameInputs s s') (ty : IntType) (e : Endian) (c : Ctl) :
    CompletesAlike s s' (readInt ty e c s) (readInt ty e c s') := by
  unfold readInt
  obtain ⟨o, hx, hx'⟩ | ⟨r, r', hx, hx', hr⟩ := h.readCheck_alike ty.bytes c <;> rw [hx, hx']
  · dsimp only
    rw [h.memRead_eq]
    exact completesAlike_next (h.setResult_alike _ false)
  · exact hr

theorem SameInputs.readF32_alike (h : SameInputs s s') (e : Endian) (c : Ctl) :
    CompletesAlike s s' (readF32 e c s) (readF32 e c s') := by
  unfold readF32
  obtain ⟨o, hx, hx'⟩ | ⟨r, r', hx, hx', hr⟩ := h.readCheck_alike 4 c <;> rw [hx, hx']
  · dsimp only
    rw [h.memRead_eq, h.drawNaN64_eq]
    exact completesAlike_next (h.setResult_alike _ _)
  · exact hr

theorem SameInputs.readF64_alike (h : SameInputs s s') (e : Endian) (c : Ctl) :
    CompletesAlike s s' (readF64 e c s) (readF64 e c s') := by
  unfold readF64
  obtain ⟨o, hx, hx'⟩ | ⟨r, r', hx, hx', hr⟩ := h.readCheck_alike 8 c <;> rw [hx, hx']
  · dsimp only
    rw [h.memRead_eq, h.drawNaN64_eq]
    exact completesAlike_next (h.setResult_alike _ _)
  · exact hr

theorem SameInputs.writeInt_alike (h : SameInputs s s') (ty : IntType) (e : Endian) (c : Ctl) :
    CompletesAlike s s' (writeInt ty e c s) (writeInt ty e c s') := by
  unfold writeInt writeCheckInt
  obtain ⟨⟨o, x⟩, hx, hx'⟩ | ⟨r, r', hx, hx', hr⟩ := h.writeCheck_alike ty.bytes (judgeInt ty.min ty.max) c <;> rw [hx, hx']
  · exact completesAlike_next (h.memWrite_alike o _ false)
  · exact hr

theorem SameInputs.writeF32_alike (h : SameInputs s s') (e : Endian) (c : Ctl) :
    CompletesAlike s s' (writeF32 e c s) (writeF32 e c s') := by
  unfold writeF32 writeCheckFloat
  obtain ⟨⟨o, b⟩, hx, hx'⟩ | ⟨r, r', hx, hx', hr⟩ := h.writeCheck_alike 4 (judgeFloat maxF32Units) c <;> rw [hx, hx']
  · rw [h.params, h.drawNaN32_eq]
    exact completesAlike_next (h.memWrite_alike o _ _)
  · exact hr

theorem SameInputs.writeF64_alike (h : SameInputs s s') (e : Endian) (c : Ctl) :
    CompletesAlike s s' (writeF64 e c s) (writeF64 e c s') := by
  unfold writeF64 writeCheckFloat
  obtain ⟨⟨o, b⟩, hx, hx'⟩ | ⟨r, r', hx, hx', hr⟩ := h.writeCheck_alike 8 (judgeFloat maxF64Units) c <;> rw [hx, hx']
  · rw [h.params, h.drawNaN64_eq]
    exact completesAlike_next (h.memWrite_alike o _ _)
  · exact hr

theorem SameInputs.textToBytes_alike (h : SameInputs s s') (codec : List CodePoint → Except ErrorKind (List Byte)) :
    CompletesAlike s s' (textToBytes codec s) (textToBytes codec s') := by
  unfold textToBytes
  obtain ⟨x, hx, hx'⟩ | ⟨r, r', hx, hx', hr⟩ := h.textOperand_alike <;> rw [hx, hx']
  · dsimp only
    split
    · exact completesAlike_next (h.setBout_alike _)
    · exact completesAlike_next (h.raise_alike .bout _)
  · exact hr

theorem SameInputs.bytesToText_alike (h : SameInputs s s') (codec : List Byte → List CodePoint) :
    CompletesAlike s s' (bytesToText codec s) (bytesToText codec s') := by
  unfold bytesToText
  obtain ⟨bs, hx, hx'⟩ | ⟨r, r', hx, hx', hr⟩ := h.bytesOperand_alike <;> rw [hx, hx']
  · exact completesAlike_next (h.setTout_alike _ false)
  · exact hr

theorem SameInputs.execU8dec_alike (h : SameInputs s s') (c : Ctl) : CompletesAlike s s' (execU8dec c s) (execU8dec c s') := by
  unfold execU8dec
  obtain ⟨bs, hx, hx'⟩ | ⟨r, r', hx, hx', hr⟩ := h.bytesOperand_alike <;> rw [hx, hx']
  · rw [h.draws]
    dsimp only
    split
    · exact completesAlike_next (h.setTout_alike _ false)
    · exact completesAlike_next (h.setTout_alike _ true)
  · exact hr

theorem SameInputs.execLength_alike (h : SameInputs s s') (c : Ctl) : CompletesAlike s s' (execLength c s) (execLength c s') := by
  rw [execLength, execLength, h.len]
  exact completesAlike_next (h.setResult_alike _ false)

theorem SameInputs.execEncsel_alike (h : SameInputs s s') (c : Ctl) : CompletesAlike s s' (execEncsel c s) (execEncsel c s') := by
  unfold execEncsel
  obtain ⟨name, hx, hx'⟩ | ⟨r, r', hx, hx', hr⟩ := h.nameOperand_alike c <;> rw [hx, hx']
  · dsimp only
    split
    · exact completesAlike_next (h.setResult_alike _ false)
    · exact completesAlike_next (h.raise_alike .none _)
  · exact hr

theorem SameInputs.exec_alike (h : SameInputs s s') (i : Instr) : CompletesAlike s s' (exec i s) (exec i s') := by
  cases i with
  | length c => exact h.execLength_alike c
  | encsel c => exact h.execEncsel_alike c
  | b64dec c | hexdec c => exact h.textToBytes_alike _
  | u8enc c => exact h.textToBytes_alike (fun t => .ok (u8Encode t))
  | b64enc c | hexenc c => exact h.bytesToText_alike _
  | u8dec c => exact h.execU8dec_alike c
  | readU8 c | readI8 c | readU16LE c | readU16BE c | readI16LE c | readI16BE c | readU32LE c | readU32BE c | readI32LE c
  | readI32BE c => exact h.readInt_alike _ _ c
  | readF32LE c | readF32BE c => exact h.readF32_alike _ c
  | readF64LE c | readF64BE c => exact h.readF64_alike _ c
  | writeU8 c | writeI8 c | writeU16LE c | writeU16BE c | writeI16LE c | writeI16BE c | writeU32LE c | writeU32BE c | writeI32LE c
  | writeI32BE c => exact h.writeInt_alike _ _ c
  | writeF32LE c | writeF32BE c => exact h.writeF32_alike _ c
  | writeF64LE c | writeF64BE c => exact h.writeF64_alike _ c

end

/-- Settles O17: the two states have the same inputs, and every command runs alike from such states. -/
theorem commandsIgnoreTheOutputRegisters : Obligations.CommandsIgnoreTheOutputRegisters := by
  intro i s t r c x y h
  have hsame : SameInputs s { s with result := r, status := c, tout := x, bout := y } := ⟨rfl, rfl, rfl, rfl, rfl, rfl, rfl, rfl⟩
  obtain ⟨t', h', hstatus, hbuf, hdraws, hresult, htout, hbout⟩ := hsame.exec_alike i t h
  exact ⟨t', h', hstatus, hbuf, hdraws, hresult, htout, hbout⟩

end Sys2Proof.Machine
end

section
/-! Hex (42_hex R100 to R102): HexdecDecodesOrRaises, HexencEncodesEveryByteList; with the equations of the shared shape of the
text commands. -/

namespace Sys2Proof.Machine

/-! ## The text commands, once their operand is written -/

theorem textOperand_of_holds {s : State} {t : List CodePoint} (ht : s.tin = .holds t) : textOperand s = .ok t := by
  rw [textOperand, ht, readOperand_holds]

theorem bytesOperand_of_holds {s : State} {bs : List Byte} (hb : s.bin = .holds bs) : bytesOperand s = .ok bs := by
  rw [bytesOperand, hb, readOperand_holds]

theorem textToBytes_of_ok {codec : List CodePoint → Except ErrorKind (List Byte)} {s : State} {t : List CodePoint}
    {bs : List Byte} (ht : s.tin = .holds t) (h : codec t = .ok bs) :
    textToBytes codec s = .next { s with bout := bs, status := 0 } := by
  simp only [textToBytes, textOperand_of_holds ht, h]
  rfl

theorem textToBytes_of_error {codec : List CodePoint → Except ErrorKind (List Byte)} {s : State} {t : List CodePoint}
    {e : ErrorKind} (ht : s.tin = .holds t) (h : codec t = .error e) :
    textToBytes codec s = .next { s with bout := [], status := e.code } := by
  simp only [textToBytes, textOperand_of_holds ht, h]
  rfl

theorem bytesToText_of_holds (codec : List Byte → List CodePoint) {s : State} {bs : List Byte} (hb : s.bin = .holds bs) :
    bytesToText codec s = .next { s with tout := codec bs, status := 0 } := by
  simp only [bytesToText, bytesOperand_of_holds hb]
  rfl

/-! ## HEXDEC -/

theorem hexValue_eq_hexDigitValue (c : CodePoint) : hexValue c = hexDigitValue c := by
  simp only [hexValue, hexDigitValue, BitVec.le_def, BitVec.reduceToNat]
  split_ifs <;> congr 1 <;> omega

theorem hexDigitValue_lt {c : CodePoint} {v : Nat} (h : hexDigitValue c = some v) : v < 16 := by
  simp only [hexDigitValue] at h
  split_ifs at h <;> cases h <;> omega

theorem hexPairs_of_not_digit : ∀ {t : List CodePoint}, t.length % 2 ≠ 0 ∨ (∃ p ∈ t, hexDigitValue p = none) →
    hexPairs t = .error .malformedInput
  | [], h => by simp at h
  | [_], _ => rfl
  | a :: b :: rest, h => by
    simp only [hexPairs, hexValue_eq_hexDigitValue]
    cases ha : hexDigitValue a with
    | none => rfl
    | some x =>
      cases hb : hexDigitValue b with
      | none => rfl
      | some y =>
        have hrest : rest.length % 2 ≠ 0 ∨ ∃ p ∈ rest, hexDigitValue p = none := by
          simpa [ha, hb, Nat.add_assoc] using h
        dsimp only
        rw [hexPairs_of_not_digit hrest]
        rfl

/-- `out` is what the digit pairs of `t` stand for (42_hex R101). -/
def HexDecodesTo (t : List CodePoint) (out : List Byte) : Prop :=
  2 * out.length = t.length ∧
    ∀ i, i < out.length → ∃ h l, (t[2 * i]?).bind hexDigitValue = some h ∧ (t[2 * i + 1]?).bind hexDigitValue = some l ∧
      (out[i]?).map BitVec.toNat = some (16 * h + l)

theorem HexDecodesTo.cons {a b : CodePoint} {x y : Nat} {rest : List CodePoint} {out : List Byte}
    (ha : hexDigitValue a = some x) (hb : hexDigitValue b = some y) (h : HexDecodesTo rest out) :
    HexDecodesTo (a :: b :: rest) (BitVec.ofNat 8 (16 * x + y) :: out) := by
  obtain ⟨hlen, hpair⟩ := h
  refine ⟨by simp only [List.length_cons]; omega, fun i hi => ?_⟩
  cases i with
  | zero =>
    have hx := hexDigitValue_lt ha
    have hy := hexDigitValue_lt hb
    exact ⟨x, y, ha, hb, by simp; omega⟩
  | succ i => exact hpair i (Nat.lt_of_succ_lt_succ hi)

theorem hexPairs_of_digits : ∀ {t : List CodePoint}, t.length % 2 = 0 → (∀ p ∈ t, hexDigitValue p ≠ none) →
    ∃ out, hexPairs t = .ok out ∧ HexDecodesTo t out
  | [], _, _ => ⟨[], rfl, rfl, nofun⟩
  | [_], h, _ => by simp at h
  | a :: b :: rest, hlen, h => by
    simp only [List.forall_mem_cons] at h
    obtain ⟨ha, hb, hrest⟩ := h
    obtain ⟨x, hx⟩ := Option.ne_none_iff_exists'.1 ha
    obtain ⟨y, hy⟩ := Option.ne_none_iff_exists'.1 hb
    obtain ⟨out, ho, hdec⟩ := hexPairs_of_digits (t := rest) (by simpa [Nat.add_assoc] using hlen) hrest
    refine ⟨_, ?_, hdec.cons hx hy⟩
    simp only [hexPairs, hexValue_eq_hexDigitValue, hx, hy, ho]
    rfl

/-- Settles O31: HEXDEC's length check repeats what the pairs find, so the pairs decide. -/
theorem hexdecDecodesOrRaises : Obligations.HexdecDecodesOrRaises := by
  intro c s t ht
  refine ⟨fun hbad => textToBytes_of_error (e := .malformedInput) ht ?_, fun hlen hdigits => ?_⟩
  · unfold hexDecode
    split
    · rfl
    · exact hexPairs_of_not_digit hbad
  · obtain ⟨out, ho, hdec⟩ := hexPairs_of_digits hlen hdigits
    refine ⟨out, textToBytes_of_ok ht ?_, hdec⟩
    rw [hexDecode, if_neg (not_not.2 hlen), ho]

/-! ## HEXENC -/

theorem toNat_hexDigit {v : Nat} (h : v < 16) : (hexDigit v).toNat = lowerHexDigit v := by
  have hall : ∀ v < 16, (hexDigit v).toNat = lowerHexDigit v := by decide
  exact hall v h

theorem hexEncode_cons (b : Byte) (bs : List Byte) :
    hexEncode (b :: bs) = hexDigit (b.toNat / 16) :: hexDigit (b.toNat % 16) :: hexEncode bs := by
  have hlow : b.toNat &&& 15 = b.toNat % 16 := Nat.and_two_pow_sub_one_eq_mod b.toNat 4
  simp [hexEncode, Nat.shiftRight_eq_div_pow, hlow]

theorem length_hexEncode (bs : List Byte) : (hexEncode bs).length = 2 * bs.length := by
  induction bs with
  | nil => rfl
  | cons b bs ih => simp only [hexEncode_cons, List.length_cons, ih]; omega

theorem getElem?_hexEncode (bs : List Byte) {i : Nat} (hi : i < bs.length) :
    (hexEncode bs)[2 * i]? = some (hexDigit (byteOr0 bs i / 16)) ∧
      (hexEncode bs)[2 * i + 1]? = some (hexDigit (byteOr0 bs i % 16)) := by
  induction bs generalizing i with
  | nil => simp at hi
  | cons b bs ih =>
    rw [hexEncode_cons]
    cases i with
    | zero => exact ⟨rfl, rfl⟩
    | succ i => exact ih (Nat.lt_of_succ_lt_succ hi)

/-- Settles O32: the digits at `2 * i` are those of byte `i`, each half of which is below 16. -/
theorem hexencEncodesEveryByteList : Obligations.HexencEncodesEveryByteList := by
  intro c s bs hb
  refine ⟨hexEncode bs, bytesToText_of_holds hexEncode hb, length_hexEncode bs, fun i hi => ?_⟩
  obtain ⟨hhigh, hlow⟩ := getElem?_hexEncode bs hi
  have hbyte : byteOr0 bs i < 256 := BitVec.isLt _
  rw [hhigh, hlow, Option.map_some, Option.map_some, toNat_hexDigit (by omega), toNat_hexDigit (by omega)]
  exact ⟨rfl, rfl⟩

end Sys2Proof.Machine
end

section
/-! Base64 (41_base64 R90 to R92, 10_state R31): B64encEncodesEveryByteList, B64decDecodesOrRaises. -/

namespace Sys2Proof.Machine

/-! ## The alphabet -/

theorem sixBitValue_b64Char {v : Nat} (h : v < 64) : sixBitValue (b64Char v) = some v := by
  have hall : ∀ v < 64, sixBitValue (b64Char v) = some v := by decide
  exact hall v h

theorem b64Index_b64Char {v : Nat} (h : v < 64) : b64Index (b64Char v) = some v := by
  have hall : ∀ v < 64, b64Index (b64Char v) = some v := by decide
  exact hall v h

theorem sixBitValue_lt {c : CodePoint} {v : Nat} (h : sixBitValue c = some v) : v < 64 := by
  simp only [sixBitValue] at h
  split_ifs at h <;> cases h <;> omega

theorem sixBitValue_injective {c d : CodePoint} {v : Nat} (hc : sixBitValue c = some v) (hd : sixBitValue d = some v) :
    c = d := by
  apply BitVec.eq_of_toNat_eq
  simp only [sixBitValue] at hc hd
  split_ifs at hc hd <;> simp only [Option.some.injEq] at hc hd <;> omega

/-- The model looks a character up in the alphabet, the statements compute its index: both find the same. -/
theorem b64Index_eq_sixBitValue (c : CodePoint) : b64Index c = sixBitValue c := by
  cases hc : sixBitValue c with
  | some v =>
    have hv := sixBitValue_lt hc
    rw [sixBitValue_injective hc (sixBitValue_b64Char hv), b64Index_b64Char hv]
  | none =>
    refine List.idxOf?_eq_none_iff.2 fun hmem => ?_
    obtain ⟨v, hv, rfl⟩ := List.getElem_of_mem hmem
    have hchar : b64Char v = b64Alphabet[v] := (List.getElem_eq_getD b64Pad).symm
    rw [← hchar, sixBitValue_b64Char hv] at hc
    cases hc

/-! ## Bit fields by plain arithmetic -/

/-- Two bit fields that do not overlap, joined. -/
theorem shiftLeft_or_shiftRight {a b : Nat} (k j : Nat) (h : b / 2 ^ j < 2 ^ k) :
    (a <<< k ||| b >>> j) = a * 2 ^ k + b / 2 ^ j := by
  rw [Nat.shiftRight_eq_div_pow, ← Nat.shiftLeft_add_eq_or_of_lt h, Nat.shiftLeft_eq]

theorem and_63 (n : Nat) : n &&& 63 = n % 64 := Nat.and_two_pow_sub_one_eq_mod n 6

/-! ## B64ENC -/

/-- `p` is what stands at position `i` of the base64 encoding of `bs` (41_base64 R92). -/
def IsB64Symbol (bs : List Byte) (i : Nat) (p : CodePoint) : Prop :=
  if 1 ≤ i % 4 ∧ bs.length ≤ 3 * (i / 4) + i % 4 - 1 then p = 0x3D else sixBitValue p = some (b64SymbolAt bs i)

theorem b64SymbolAt_lt (bs : List Byte) (i : Nat) : b64SymbolAt bs i < 64 := by
  have hbyte (k : Nat) : byteOr0 bs k < 256 := BitVec.isLt _
  have h0 := hbyte (3 * (i / 4))
  have h1 := hbyte (3 * (i / 4) + 1)
  have h2 := hbyte (3 * (i / 4) + 2)
  unfold b64SymbolAt
  split <;> omega

/-- The symbols after the first group are those of the bytes after the first three. -/
theorem b64SymbolAt_add_four (b0 b1 b2 : Byte) (bs : List Byte) (i : Nat) :
    b64SymbolAt (b0 :: b1 :: b2 :: bs) (i + 4) = b64SymbolAt bs i := by
  have hgroup : 3 * ((i + 4) / 4) = 3 * (i / 4) + 3 := by omega
  simp only [b64SymbolAt, hgroup, Nat.add_mod_right]
  rfl

theorem IsB64Symbol.of_tail {b0 b1 b2 : Byte} {bs : List Byte} {i : Nat} {p : CodePoint} (h : IsB64Symbol bs i p) :
    IsB64Symbol (b0 :: b1 :: b2 :: bs) (i + 4) p := by
  have hcond : (1 ≤ (i + 4) % 4 ∧ (b0 :: b1 :: b2 :: bs).length ≤ 3 * ((i + 4) / 4) + (i + 4) % 4 - 1) ↔
      (1 ≤ i % 4 ∧ bs.length ≤ 3 * (i / 4) + i % 4 - 1) := by
    simp only [List.length_cons]
    omega
  unfold IsB64Symbol
  rw [b64SymbolAt_add_four]
  simp only [hcond]
  exact h

/-- A symbol of the alphabet that stands for the right six bits, where the bytes have not run out. -/
theorem isB64Symbol_b64Char {bs : List Byte} {i v : Nat} (hi : i % 4 = 0 ∨ 3 * (i / 4) + i % 4 - 1 < bs.length)
    (hv : v = b64SymbolAt bs i) : IsB64Symbol bs i (b64Char v) := by
  unfold IsB64Symbol
  rw [if_neg (by omega), hv, sixBitValue_b64Char (b64SymbolAt_lt bs i)]

theorem isB64Symbol_b64Pad {bs : List Byte} {i : Nat} (hi : 1 ≤ i % 4) (hlen : bs.length ≤ 3 * (i / 4) + i % 4 - 1) :
    IsB64Symbol bs i b64Pad := by
  unfold IsB64Symbol
  rw [if_pos ⟨hi, hlen⟩]
  rfl

/-- The first group's symbols, by the shifts of R92. -/
theorem b64SymbolAt_zero (bs : List Byte) : b64SymbolAt bs 0 = byteOr0 bs 0 >>> 2 :=
  (Nat.shiftRight_eq_div_pow _ 2).symm

theorem b64SymbolAt_one (bs : List Byte) : b64SymbolAt bs 1 = (byteOr0 bs 0 <<< 4 ||| byteOr0 bs 1 >>> 4) &&& 63 := by
  have h1 : byteOr0 bs 1 < 256 := BitVec.isLt _
  rw [and_63, shiftLeft_or_shiftRight 4 4 (by omega)]
  change byteOr0 bs 0 % 4 * 16 + byteOr0 bs 1 / 16 = _
  omega

theorem b64SymbolAt_two (bs : List Byte) : b64SymbolAt bs 2 = (byteOr0 bs 1 <<< 2 ||| byteOr0 bs 2 >>> 6) &&& 63 := by
  have h2 : byteOr0 bs 2 < 256 := BitVec.isLt _
  rw [and_63, shiftLeft_or_shiftRight 2 6 (by omega)]
  change byteOr0 bs 1 % 16 * 4 + byteOr0 bs 2 / 64 = _
  omega

theorem b64SymbolAt_three (bs : List Byte) : b64SymbolAt bs 3 = byteOr0 bs 2 &&& 63 := (and_63 _).symm

/-- Every character of `out` is what stands at its position of the encoding of `bs`. -/
def B64EncodesTo (bs : List Byte) (out : List CodePoint) : Prop := ∀ i p, out[i]? = some p → IsB64Symbol bs i p

theorem b64EncodesTo_group {bs : List Byte} {c0 c1 c2 c3 : CodePoint} {tail : List CodePoint} (h0 : IsB64Symbol bs 0 c0)
    (h1 : IsB64Symbol bs 1 c1) (h2 : IsB64Symbol bs 2 c2) (h3 : IsB64Symbol bs 3 c3)
    (htail : ∀ i p, tail[i]? = some p → IsB64Symbol bs (i + 4) p) : B64EncodesTo bs (c0 :: c1 :: c2 :: c3 :: tail)
  | 0, _, rfl => h0
  | 1, _, rfl => h1
  | 2, _, rfl => h2
  | 3, _, rfl => h3
  | i + 4, p, h => htail i p h

theorem b64EncodesTo_b64Encode (bs : List Byte) : B64EncodesTo bs (b64Encode bs) := by
  induction bs using b64Encode.induct with
  | case1 => exact nofun
  | case2 b0 =>
    rw [b64Encode]
    exact b64EncodesTo_group (isB64Symbol_b64Char (.inl rfl) (by simp [b64SymbolAt_zero, byteOr0]))
      (isB64Symbol_b64Char (.inr (by simp)) (by simp [b64SymbolAt_one, byteOr0]))
      (isB64Symbol_b64Pad (by simp) (by simp)) (isB64Symbol_b64Pad (by simp) (by simp)) nofun
  | case3 b0 b1 =>
    rw [b64Encode]
    exact b64EncodesTo_group (isB64Symbol_b64Char (.inl rfl) (by simp [b64SymbolAt_zero, byteOr0]))
      (isB64Symbol_b64Char (.inr (by simp)) (by simp [b64SymbolAt_one, byteOr0]))
      (isB64Symbol_b64Char (.inr (by simp)) (by simp [b64SymbolAt_two, byteOr0]))
      (isB64Symbol_b64Pad (by simp) (by simp)) nofun
  | case4 b0 b1 b2 rest ih =>
    rw [b64Encode]
    exact b64EncodesTo_group (isB64Symbol_b64Char (.inl rfl) (by simp [b64SymbolAt_zero, byteOr0]))
      (isB64Symbol_b64Char (.inr (by simp)) (by simp [b64SymbolAt_one, byteOr0]))
      (isB64Symbol_b64Char (.inr (by simp)) (by simp [b64SymbolAt_two, byteOr0]))
      (isB64Symbol_b64Char (.inr (by simp)) (by simp [b64SymbolAt_three, byteOr0]))
      fun i p h => (ih i p h).of_tail

theorem length_b64Encode (bs : List Byte) : (b64Encode bs).length = 4 * ((bs.length + 2) / 3) := by
  induction bs using b64Encode.induct with
  | case1 | case2 | case3 => simp [b64Encode]
  | case4 b0 b1 b2 rest ih =>
    simp only [b64Encode, b64GroupChars, List.length_append, List.length_cons, List.length_nil, ih]
    omega

/-- Settles O29: every character of the encoding is the symbol of its position, by recursion on the groups. -/
theorem b64encEncodesEveryByteList : Obligations.B64encEncodesEveryByteList := by
  intro c s bs hb
  refine ⟨b64Encode bs, bytesToText_of_holds b64Encode hb, length_b64Encode bs, fun i hi => ?_⟩
  exact ⟨(b64Encode bs)[i], List.getElem?_eq_getElem hi, b64EncodesTo_b64Encode bs i _ (List.getElem?_eq_getElem hi)⟩

/-! ## B64DEC: the checks -/

/-- A text without its trailing '=' (41_base64 R91). -/
def b64Body (t : List CodePoint) : List CodePoint := t.take (t.length - b64Padding t)

theorem rtakeWhile_b64Pad (t : List CodePoint) : t.rtakeWhile (· == b64Pad) = List.replicate (b64Padding t) b64Pad := by
  refine List.eq_replicate_iff.2 ⟨by simp [List.rtakeWhile, b64Padding], fun c hc => ?_⟩
  simpa using List.mem_rtakeWhile_imp hc

theorem b64Body_eq_rdropWhile (t : List CodePoint) : b64Body t = t.rdropWhile (· == b64Pad) := by
  have ht : t.rdropWhile (· == b64Pad) ++ List.replicate (b64Padding t) b64Pad = t := by
    rw [← rtakeWhile_b64Pad, List.rdropWhile_append_rtakeWhile]
  have hlen := congrArg List.length ht
  rw [List.length_append, List.length_replicate] at hlen
  calc b64Body t = t.take (t.rdropWhile (· == b64Pad)).length := by rw [b64Body, ← hlen, Nat.add_sub_cancel]
    _ = (t.rdropWhile (· == b64Pad) ++ List.replicate (b64Padding t) b64Pad).take (t.rdropWhile (· == b64Pad)).length := by
      rw [ht]
    _ = t.rdropWhile (· == b64Pad) := List.take_left

theorem b64Body_append_padding (t : List CodePoint) : b64Body t ++ List.replicate (b64Padding t) b64Pad = t := by
  rw [b64Body_eq_rdropWhile, ← rtakeWhile_b64Pad, List.rdropWhile_append_rtakeWhile]

theorem getLast?_b64Body (t : List CodePoint) : (b64Body t).getLast? ≠ some b64Pad := by
  rw [b64Body_eq_rdropWhile]
  intro hlast
  obtain ⟨hne, hpad⟩ := List.mem_getLast?_eq_getLast hlast
  exact List.rdropWhile_last_not _ _ hne (by simp [← hpad])

theorem paddingMisplaced_append {body : List CodePoint} (n : Nat) (hlast : body.getLast? ≠ some b64Pad) :
    PaddingMisplaced (body ++ List.replicate n b64Pad) ↔ 2 < n ∨ b64Pad ∈ body := by
  have hpad (k : Nat) (hk : k < n) : (body ++ List.replicate n b64Pad)[body.length + k]? = some b64Pad := by
    simp [hk]
  constructor
  · rintro ⟨i, hi, hpos⟩
    simp only [List.length_append, List.length_replicate] at hpos
    by_cases hbody : i < body.length
    · rw [List.getElem?_append_left hbody] at hi
      exact .inr (List.mem_of_getElem? hi)
    · rcases hpos with hlt | ⟨heq, hnext⟩
      · exact .inl (by omega)
      · have h1 := hpad (i + 1 - body.length) (by omega)
        rw [show body.length + (i + 1 - body.length) = i + 1 by omega] at h1
        exact absurd h1 hnext
  · rintro (hn | hmem)
    · exact ⟨body.length, hpad 0 (by omega), .inl (by simp; omega)⟩
    · obtain ⟨i, hi, hget⟩ := List.getElem_of_mem hmem
      rw [List.getLast?_eq_getElem?] at hlast
      have hi1 : i ≠ body.length - 1 := by
        rintro rfl
        exact hlast (List.getElem?_eq_some_iff.2 ⟨hi, hget⟩)
      refine ⟨i, (List.getElem?_append_left hi).trans (List.getElem?_eq_some_iff.2 ⟨hi, hget⟩), ?_⟩
      simp only [List.length_append, List.length_replicate]
      by_cases hend : i + 2 < body.length + n
      · exact .inl hend
      · refine .inr ⟨by omega, ?_⟩
        rwa [List.getElem?_append_left (by omega), show i + 1 = body.length - 1 by omega]

theorem paddingMisplaced_iff (t : List CodePoint) : PaddingMisplaced t ↔ 2 < b64Padding t ∨ b64Pad ∈ b64Body t := by
  conv_lhs => rw [← b64Body_append_padding t]
  exact paddingMisplaced_append _ (getLast?_b64Body t)

theorem mem_iff_mem_b64Body {t : List CodePoint} {c : CodePoint} (hc : c ≠ b64Pad) : c ∈ t ↔ c ∈ b64Body t := by
  conv_lhs => rw [← b64Body_append_padding t]
  simp [hc]

theorem count_b64Pad {t : List CodePoint} (h : ¬ PaddingMisplaced t) : t.count b64Pad = b64Padding t := by
  rw [paddingMisplaced_iff, not_or] at h
  conv_lhs => rw [← b64Body_append_padding t]
  rw [List.count_append, List.count_eq_zero.2 h.2, List.count_replicate_self, Nat.zero_add]

/-! ## B64DEC: what the model answers -/

theorem b64Decode_of_length {t : List CodePoint} (h : t.length % 4 ≠ 0) : b64Decode t = .error .malformedInput := by
  rw [b64Decode, if_pos h]

theorem b64Decode_of_misplaced {t : List CodePoint} (hlen : t.length % 4 = 0) (h : PaddingMisplaced t) :
    b64Decode t = .error .malformedInput := by
  simp only [b64Decode, hlen, ne_eq, not_true_eq_false, if_false]
  split
  · rfl
  · rename_i hp
    have hmem : b64Pad ∈ b64Body t := ((paddingMisplaced_iff t).1 h).resolve_left hp
    exact if_pos (List.contains_iff_mem.2 hmem)

/-- Once the length and the padding pass, the alphabet decides. -/
theorem b64Decode_of_placed {t : List CodePoint} (hlen : t.length % 4 = 0) (h : ¬ PaddingMisplaced t) :
    b64Decode t =
      if (b64Body t).any (fun c => (b64Index c).isNone) then .error .illegalCharacter
      else .ok ((b64Groups t).take ((b64Groups t).length - b64Padding t)) := by
  rw [paddingMisplaced_iff, not_or] at h
  obtain ⟨hp, hmem⟩ := h
  have hbody : (t.take (t.length - b64Padding t)).contains b64Pad = false := by
    simpa [b64Body] using hmem
  simp only [b64Decode, hlen, ne_eq, not_true_eq_false, if_false, if_neg hp, hbody, Bool.false_eq_true]
  rfl

/-- The body holds every character but the trailing '=', so its alphabet check is that of the text. -/
theorem any_illegal_iff {t : List CodePoint} (h : ¬ PaddingMisplaced t) :
    (b64Body t).any (fun c => (b64Index c).isNone) = true ↔ ∃ p ∈ t, p ≠ 0x3D ∧ sixBitValue p = none := by
  rw [paddingMisplaced_iff, not_or] at h
  obtain ⟨_, hbody⟩ := h
  simp only [List.any_eq_true, b64Index_eq_sixBitValue, Option.isNone_iff_eq_none]
  constructor
  · rintro ⟨p, hp, hnone⟩
    have hpad : p ≠ b64Pad := fun h => hbody (h ▸ hp)
    exact ⟨p, (mem_iff_mem_b64Body hpad).2 hp, hpad, hnone⟩
  · rintro ⟨p, hp, hpad, hnone⟩
    exact ⟨p, (mem_iff_mem_b64Body hpad).1 hp, hnone⟩

/-! ## B64DEC: the bytes -/

theorem sixBitsAt_lt (t : List CodePoint) (k : Nat) : sixBitsAt t k < 64 := by
  unfold sixBitsAt
  cases h : (t[k]?).bind sixBitValue with
  | none => exact Nat.succ_pos _
  | some v =>
    obtain ⟨c, _, hc⟩ := Option.bind_eq_some_iff.1 h
    exact sixBitValue_lt hc

theorem sixBitsAt_eq_b64Value {t : List CodePoint} {k : Nat} {c : CodePoint} (h : t[k]? = some c) :
    sixBitsAt t k = b64Value c := by
  rw [sixBitsAt, h, b64Value, b64Index_eq_sixBitValue, Option.bind_some]

/-- The bytes after the first three are those of the text after the first group. -/
theorem b64ByteAt_add_three (t0 t1 t2 t3 : CodePoint) (t : List CodePoint) (i : Nat) :
    b64ByteAt (t0 :: t1 :: t2 :: t3 :: t) (i + 3) = b64ByteAt t i := by
  have hpos : 4 * ((i + 3) / 3) + i % 3 = 4 * (i / 3) + i % 3 + 4 := by omega
  simp only [b64ByteAt, Nat.add_mod_right, hpos]
  rfl

/-- The byte of eight bits within two six-bit symbols, `k` bits into the first (41_base64 R90). -/
theorem ofNat_shiftLeft_or_shiftRight {a b k j : Nat} (hb : b < 64) (hkj : k + j = 6) :
    BitVec.ofNat 8 (a <<< k ||| b >>> j) = BitVec.ofNat 8 ((a * 64 + b) / 2 ^ j % 256) := by
  have hpow : 2 ^ k * 2 ^ j = 64 := by rw [← pow_add, hkj]; rfl
  have hsplit : (a * 64 + b) / 2 ^ j = a * 2 ^ k + b / 2 ^ j := by
    rw [← hpow, ← Nat.mul_assoc, Nat.add_comm, Nat.add_mul_div_right _ _ (Nat.two_pow_pos j), Nat.add_comm]
  rw [shiftLeft_or_shiftRight k j (Nat.div_lt_of_lt_mul (by rwa [Nat.mul_comm, hpow])), hsplit]
  exact BitVec.eq_of_toNat_eq (by simp)

/-- The first three bytes are made of the first four symbols. -/
theorem b64GroupBytes_eq (t0 t1 t2 t3 : CodePoint) (t : List CodePoint) :
    b64GroupBytes (b64Value t0) (b64Value t1) (b64Value t2) (b64Value t3) =
      (List.range 3).map fun i => BitVec.ofNat 8 (b64ByteAt (t0 :: t1 :: t2 :: t3 :: t) i) := by
  have hlt (k : Nat) := sixBitsAt_lt (t0 :: t1 :: t2 :: t3 :: t) k
  have hvalue {k : Nat} {c : CodePoint} := sixBitsAt_eq_b64Value (t := t0 :: t1 :: t2 :: t3 :: t) (k := k) (c := c)
  rw [b64GroupBytes, ← hvalue (k := 0) rfl, ← hvalue (k := 1) rfl, ← hvalue (k := 2) rfl, ← hvalue (k := 3) rfl,
    ofNat_shiftLeft_or_shiftRight (hlt 1) rfl, ofNat_shiftLeft_or_shiftRight (hlt 2) rfl,
    ← Nat.shiftRight_zero (n := sixBitsAt _ 3), ofNat_shiftLeft_or_shiftRight (hlt 3) rfl]
  rfl

theorem b64ByteAt_lt (t : List CodePoint) (i : Nat) : b64ByteAt t i < 256 := Nat.mod_lt _ (by decide)

/-- The bytes of all groups, in order. -/
theorem b64Groups_eq : ∀ t : List CodePoint,
    b64Groups t = (List.range (3 * (t.length / 4))).map fun i => BitVec.ofNat 8 (b64ByteAt t i)
  | [] | [_] | [_, _] | [_, _, _] => by simp [b64Groups]
  | t0 :: t1 :: t2 :: t3 :: t => by
    have hlen : 3 * ((t0 :: t1 :: t2 :: t3 :: t).length / 4) = 3 + 3 * (t.length / 4) := by
      simp only [List.length_cons]
      omega
    have hshift (i : Nat) : b64ByteAt (t0 :: t1 :: t2 :: t3 :: t) (3 + i) = b64ByteAt t i := by
      rw [Nat.add_comm, b64ByteAt_add_three]
    rw [b64Groups, b64GroupBytes_eq t0 t1 t2 t3 t, b64Groups_eq t, hlen, List.range_add, List.map_append, List.map_map]
    simp only [Function.comp_def, hshift]

theorem length_b64Groups (t : List CodePoint) : (b64Groups t).length = 3 * (t.length / 4) := by
  rw [b64Groups_eq, List.length_map, List.length_range]

theorem getElem?_b64Groups {t : List CodePoint} {i : Nat} (hi : i < 3 * (t.length / 4)) :
    ((b64Groups t)[i]?).map BitVec.toNat = some (b64ByteAt t i) := by
  rw [b64Groups_eq, List.getElem?_map, List.getElem?_range hi, Option.map_some, Option.map_some,
    BitVec.toNat_ofNat, Nat.mod_eq_of_lt (b64ByteAt_lt t i)]

theorem b64Padding_le_length (t : List CodePoint) : b64Padding t ≤ t.length := by
  simpa [b64Padding] using (List.takeWhile_sublist (· == b64Pad) (l := t.reverse)).length_le

/-- Settles O28: the model's three checks are the spec's, and the bytes are those of the groups less the padding. -/
theorem b64decDecodesOrRaises : Obligations.B64decDecodesOrRaises := by
  intro c s t ht
  refine ⟨fun hlen => ?_, fun hlen hmis => ?_, fun hlen hmis hbad => ?_, fun hlen hmis hgood => ?_⟩
  · exact textToBytes_of_error ht (b64Decode_of_length hlen)
  · exact textToBytes_of_error ht (b64Decode_of_misplaced hlen hmis)
  · exact textToBytes_of_error ht ((b64Decode_of_placed hlen hmis).trans (if_pos ((any_illegal_iff hmis).2 hbad)))
  · have hany : ¬ (b64Body t).any (fun c => (b64Index c).isNone) = true := by
      rw [any_illegal_iff hmis]
      rintro ⟨p, hp, hpad, hnone⟩
      exact (hgood p hp).elim hpad (fun h => h hnone)
    have hplaced := hmis
    rw [paddingMisplaced_iff, not_or] at hplaced
    obtain ⟨hpadding, _⟩ := hplaced
    have hle := b64Padding_le_length t
    refine ⟨_, textToBytes_of_ok ht ((b64Decode_of_placed hlen hmis).trans (if_neg hany)), ?_, fun i hi => ?_⟩
    · rw [List.length_take, length_b64Groups]
      have hcount : t.count 0x3D = b64Padding t := count_b64Pad hmis
      omega
    · rw [List.length_take, length_b64Groups] at hi
      rw [List.getElem?_take_of_lt (by rw [length_b64Groups]; omega)]
      exact getElem?_b64Groups (by omega)

end Sys2Proof.Machine
end

section
/-! Byte order (20_memory R43): ByteOrderIsAsStated; with what a write of a pattern leaves in BUF. -/

namespace Sys2Proof.Machine

/-- The byte order as the statements name it. -/
def Endian.isBig : Endian → Bool
  | .little => false
  | .big => true

/-! ## The bytes of a pattern -/

theorem getElem?_leBytes {n i : Nat} (hi : i < n) (x : Nat) : (leBytes n x)[i]? = some (BitVec.ofNat 8 (x / 256 ^ i)) := by
  induction n generalizing i x with
  | zero => omega
  | succ n ih =>
    cases i with
    | zero => simp [leBytes]
    | succ i => rw [leBytes, List.getElem?_cons_succ, ih (by omega), Nat.div_div_eq_div_mul, pow_succ']

theorem getElem?_bytes (e : Endian) {n j : Nat} (hj : j < n) (x : Nat) :
    (e.bytes n x)[j]? = some (BitVec.ofNat 8 (x / 256 ^ bytePlace e.isBig n j)) := by
  cases e with
  | little => exact getElem?_leBytes hj x
  | big =>
    rw [Endian.bytes, List.getElem?_reverse (by rwa [length_leBytes]), length_leBytes]
    exact getElem?_leBytes (by omega) x

theorem bitField_byte (x i : Nat) : bitField x (8 * i + 7) (8 * i) = x / 256 ^ i % 256 := by
  rw [bitField, pow_mul, Nat.add_sub_cancel_left, show 2 ^ 8 = 256 from rfl]

/-! ## The pattern of some bytes -/

theorem leVal_append (bs cs : List Byte) : leVal (bs ++ cs) = leVal bs + 256 ^ bs.length * leVal cs := by
  induction bs with
  | nil => simp [leVal]
  | cons b bs ih => rw [List.cons_append, leVal, ih, leVal, List.length_cons, pow_succ]; ring

@[simp] theorem length_readBytes (m : Memory) (a n : Nat) : (m.readBytes a n).length = n := by
  induction n generalizing a with
  | zero => rfl
  | succ n ih => rw [Memory.readBytes, List.length_cons, ih]

theorem leVal_readBytes (m : Memory) (a n : Nat) :
    leVal (m.readBytes a n) = ∑ i ∈ Finset.range n, (m.read (a + i)).toNat * 256 ^ i := by
  induction n generalizing a with
  | zero => rfl
  | succ n ih =>
    rw [Memory.readBytes, leVal, ih, Finset.sum_range_succ', Finset.mul_sum, Nat.add_zero, pow_zero, Nat.mul_one, Nat.add_comm]
    congr 1
    refine Finset.sum_congr rfl fun i _ => ?_
    rw [show a + 1 + i = a + (i + 1) by omega, pow_succ]
    ring

/-- The first byte is the most significant one. -/
theorem beVal_cons (b : Byte) (bs : List Byte) : beVal (b :: bs) = beVal bs + 256 ^ bs.length * b.toNat := by
  rw [beVal, List.reverse_cons, leVal_append, List.length_reverse, leVal, leVal, Nat.mul_zero, Nat.add_zero, beVal]

theorem beVal_readBytes (m : Memory) (a n : Nat) :
    beVal (m.readBytes a n) = ∑ i ∈ Finset.range n, (m.read (a + i)).toNat * 256 ^ (n - 1 - i) := by
  induction n generalizing a with
  | zero => rfl
  | succ n ih =>
    rw [Memory.readBytes, beVal_cons, ih, length_readBytes, Finset.sum_range_succ', Nat.add_zero, Nat.mul_comm]
    congr 1
    refine Finset.sum_congr rfl fun i _ => ?_
    rw [show a + 1 + i = a + (i + 1) by omega, show n + 1 - 1 - (i + 1) = n - 1 - i by omega]

/-- What a read sees, in either byte order. -/
theorem val_memRead (e : Endian) (s : State) (o n : Nat) :
    e.val (s.memRead o n) = patternOf e.isBig n fun j => s.byteAt (o + j) := by
  cases e with
  | little => exact leVal_readBytes s.buf o n
  | big => exact beVal_readBytes s.buf o n

/-- Settles O20: the bytes by their place values, the pattern by induction on the number of bytes. -/
theorem byteOrderIsAsStated : Obligations.ByteOrderIsAsStated := by
  refine ⟨fun n x i hi => ?_, fun s o n => ⟨val_memRead .little s o n, val_memRead .big s o n⟩⟩
  rw [getElem?_bytes .little hi, getElem?_bytes .big hi, bitField_byte, bitField_byte]
  simp [bytePlace, Endian.isBig, BitVec.toNat_ofNat]

theorem byteAt_lt (s : State) (a : Nat) : s.byteAt a < 256 := (s.buf.read a).isLt

/-- A pattern of `n` bytes is a number below `256^n`, in little endian. -/
theorem patternOf_little_lt (n : Nat) {byte : Nat → Nat} (h : ∀ j, byte j < 256) : patternOf false n byte < 256 ^ n := by
  induction n with
  | zero => simp [patternOf]
  | succ n ih =>
    have hlast := Nat.mul_le_mul_right (256 ^ n) (Nat.le_of_lt_succ (h n))
    have hsum : patternOf false (n + 1) byte = patternOf false n byte + byte n * 256 ^ n := Finset.sum_range_succ _ n
    rw [hsum, pow_succ]
    omega

/-- Big endian is little endian of the bytes in reverse. -/
theorem patternOf_big (n : Nat) (byte : Nat → Nat) : patternOf true n byte = patternOf false n fun j => byte (n - 1 - j) := by
  rw [patternOf, patternOf, ← Finset.sum_range_reflect]
  refine Finset.sum_congr rfl fun j hj => ?_
  have hj := Finset.mem_range.1 hj
  simp only [bytePlace, if_true, Bool.false_eq_true, if_false, show n - 1 - (n - 1 - j) = j by omega]

theorem patternOf_lt (big : Bool) (n : Nat) {byte : Nat → Nat} (h : ∀ j, byte j < 256) : patternOf big n byte < 256 ^ n := by
  cases big with
  | false => exact patternOf_little_lt n h
  | true => exact patternOf_big n byte ▸ patternOf_little_lt n fun j => h _

/-! ## What a write leaves -/

theorem getElem?_readBytes (m : Memory) (a : Nat) {n j : Nat} (hj : j < n) : (m.readBytes a n)[j]? = some (m.read (a + j)) := by
  induction n generalizing a j with
  | zero => omega
  | succ n ih =>
    cases j with
    | zero => rfl
    | succ j => rw [Memory.readBytes, List.getElem?_cons_succ, ih _ (by omega), Nat.add_assoc, Nat.add_comm 1]

/-- The bytes a memory holds from `o` on are those of the pattern `p`, and elsewhere it reads as `m` did. -/
theorem writeBytes_pattern {m : Memory} (h : m.wf = true) (e : Endian) (o n p : Nat) :
    SameOutside m (m.writeBytes o (e.bytes n p)) o n ∧
      ∀ j < n, ((m.writeBytes o (e.bytes n p)).read (o + j)).toNat = p / 256 ^ bytePlace e.isBig n j % 256 := by
  obtain ⟨hread, hout⟩ := memoryReadsTheLatestWrite m o (e.bytes n p) h
  rw [Endian.length_bytes] at hread hout
  refine ⟨hout, fun j hj => ?_⟩
  have hbyte := getElem?_readBytes (m.writeBytes o (e.bytes n p)) o hj
  rw [hread, getElem?_bytes e hj, Option.some_inj] at hbyte
  rw [← hbyte, BitVec.toNat_ofNat]

end Sys2Proof.Machine
end

section
/-! The integer reads (44_integer R133, R140 to R149): UnsignedReadsGiveTheBytes, SignedReadsAdjustTheBytes. -/

namespace Sys2Proof.Machine

theorem readCheck_good {n : Nat} {c : Ctl} {s : State} {o : Nat} (hov : c.ov = true) (ho : s.off = .holds o) (hl : o + n ≤ s.len) :
    readCheck n c s = .ok o := by
  simp only [readCheck, offsetOperand, hov, ho, readIf_holds, if_pos hl]

theorem readInt_good {ty : IntType} {e : Endian} {c : Ctl} {s : State} {o : Nat} (hov : c.ov = true) (ho : s.off = .holds o)
    (hl : o + ty.bytes ≤ s.len) :
    readInt ty e c s =
      .next { s with
        result := bits64Int (ty.ofPattern (patternOf e.isBig ty.bytes fun j => s.byteAt (o + j)))
        status := 0 } := by
  unfold readInt
  rw [readCheck_good hov ho hl, ← val_memRead]
  exact congrArg _ (setResult_done_eq _ s)

/-! ## The adjustment of R132 -/

theorem ofPattern_of_unsigned {ty : IntType} (h : ty.signed = false) (u : Nat) : ty.ofPattern u = u := by
  simp [IntType.ofPattern, h]

theorem ofPattern_of_signed {ty : IntType} (h : ty.signed = true) (u : Nat) : ty.ofPattern u = signedValue ty.bits u := by
  by_cases hu : u < 2 ^ (ty.bits - 1)
  · simp [IntType.ofPattern, signedValue, hu]
  · simp [IntType.ofPattern, signedValue, h, hu, not_lt.1 hu]

/-- An adjusted pattern is small enough to be exact in binary64. -/
theorem natAbs_ofPattern_le (ty : IntType) {u : Nat} (hu : u < 256 ^ ty.bytes) : (ty.ofPattern u).natAbs ≤ 2 ^ 53 := by
  have hbits : 2 ^ ty.bits ≤ 2 ^ 53 := Nat.pow_le_pow_right (by decide) (by cases ty <;> decide)
  have hwidth : 256 ^ ty.bytes = 2 ^ ty.bits := (pow_mul 2 8 ty.bytes).symm
  have hcast : ((2 ^ ty.bits : ℕ) : ℤ) = 2 ^ ty.bits := by push_cast; rfl
  rw [hwidth] at hu
  unfold IntType.ofPattern
  split <;> omega

/-- The RESULT of an integer read is exact. -/
theorem isBits64_ofPattern (ty : IntType) (big : Bool) (s : State) (o : Nat) :
    isBits64 (ty.ofPattern (patternOf big ty.bytes fun j => s.byteAt (o + j)))
      (bits64Int (ty.ofPattern (patternOf big ty.bytes fun j => s.byteAt (o + j)))) :=
  isBits64_bits64Int (natAbs_ofPattern_le ty (patternOf_lt _ _ fun _ => byteAt_lt s _))

/-- A read command of an integer type reads the adjusted pattern of its bytes. -/
theorem readsNumber_of_readInt {i : Instr} {ty : IntType} {e : Endian} {x : State → Nat → ℤ}
    (hexec : ∀ s, exec i s = readInt ty e i.ctl s)
    (hx : ∀ s o, ty.ofPattern (patternOf e.isBig ty.bytes fun j => s.byteAt (o + j)) = x s o) :
    ReadsNumber i ty.bytes x := by
  intro s o hov ho hl
  refine ⟨bits64Int (x s o), ?_, ?_⟩
  · rw [hexec, readInt_good hov ho hl, hx]
  rw [← hx]
  exact isBits64_ofPattern ty e.isBig s o

/-! ## The patterns of one and of two bytes, written out -/

theorem patternOf_one (big : Bool) (byte : Nat → Nat) : patternOf big 1 byte = byte 0 := by
  cases big <;> simp [patternOf, bytePlace]

theorem patternOf_two_little (byte : Nat → Nat) : patternOf false 2 byte = byte 0 + 256 * byte 1 := by
  simp [patternOf, bytePlace, Finset.sum_range_succ, Nat.mul_comm]

theorem patternOf_two_big (byte : Nat → Nat) : patternOf true 2 byte = 256 * byte 0 + byte 1 := by
  simp [patternOf, bytePlace, Finset.sum_range_succ, Nat.mul_comm]

/-- Settles O37: an unsigned type takes the pattern as it is. -/
theorem unsignedReadsGiveTheBytes : Obligations.UnsignedReadsGiveTheBytes := by
  intro c
  refine ⟨readsNumber_of_readInt (ty := .u8) (e := .little) (fun _ => rfl) fun s o => ?_,
    readsNumber_of_readInt (ty := .u16) (e := .little) (fun _ => rfl) fun s o => ?_,
    readsNumber_of_readInt (ty := .u16) (e := .big) (fun _ => rfl) fun s o => ?_,
    readsNumber_of_readInt (ty := .u32) (e := .little) (fun _ => rfl) fun s o => ?_,
    readsNumber_of_readInt (ty := .u32) (e := .big) (fun _ => rfl) fun s o => ?_⟩
  all_goals rw [ofPattern_of_unsigned rfl]
  · exact congrArg Nat.cast (patternOf_one _ _)
  · exact_mod_cast patternOf_two_little _
  · exact_mod_cast patternOf_two_big _
  · rfl
  · rfl

/-- Settles O38: a signed type takes the two's-complement reading of the pattern. -/
theorem signedReadsAdjustTheBytes : Obligations.SignedReadsAdjustTheBytes := by
  intro c
  refine ⟨readsNumber_of_readInt (ty := .i8) (e := .little) (fun _ => rfl) fun s o => ?_,
    readsNumber_of_readInt (ty := .i16) (e := .little) (fun _ => rfl) fun s o => ?_,
    readsNumber_of_readInt (ty := .i16) (e := .big) (fun _ => rfl) fun s o => ?_,
    readsNumber_of_readInt (ty := .i32) (e := .little) (fun _ => rfl) fun s o => ?_,
    readsNumber_of_readInt (ty := .i32) (e := .big) (fun _ => rfl) fun s o => ?_⟩
  all_goals rw [ofPattern_of_signed rfl]
  · exact congrArg (signedValue 8) (patternOf_one _ _)
  · exact congrArg (signedValue 16) (patternOf_two_little _)
  · exact congrArg (signedValue 16) (patternOf_two_big _)
  · rfl
  · rfl

end Sys2Proof.Machine
end

section
/-! binary32 patterns and the numbers they stand for (45_float R170), and the float reads (45_float R172, R175, R180 to R183):
SingleReadsAreExact, DoubleReadsReturnThePattern. -/

namespace Sys2Proof.Machine

/-! ## The fields of a binary32 pattern, as numbers -/

theorem bitField_exp32 (p : Bits32) : bitField p.toNat 30 23 = exp32 p := by
  simp [bitField, exp32, BitVec.extractLsb'_toNat, Nat.shiftRight_eq_div_pow]

theorem bitField_frac32 (p : Bits32) : bitField p.toNat 22 0 = frac32 p := by
  simp [bitField, frac32, BitVec.extractLsb'_toNat]

theorem bitField_sign32 (p : Bits32) : bitField p.toNat 31 31 = (sign32 p).toNat := by
  rw [sign32, BitVec.getLsbD, Nat.testBit_eq_decide_div_mod_eq, bitField, Nat.sub_self, Nat.zero_add, pow_one]
  rcases Nat.mod_two_eq_zero_or_one (p.toNat / 2 ^ 31) with h | h <;> rw [h] <;> rfl

theorem sign32_eq_iff (p : Bits32) (neg : Bool) : sign32 p = neg ↔ bitField p.toNat 31 31 = neg.toNat := by
  rw [bitField_sign32]
  cases sign32 p <;> cases neg <;> decide

theorem exp32_lt (p : Bits32) : exp32 p < 2 ^ 8 := (p.extractLsb' 23 8).isLt

theorem frac32_lt (p : Bits32) : frac32 p < 2 ^ 23 := (p.extractLsb' 0 23).isLt

theorem exp64_lt (b : Bits64) : exp64 b < 2 ^ 11 := (b.extractLsb' 52 11).isLt

theorem frac64_lt (b : Bits64) : frac64 b < 2 ^ 52 := (b.extractLsb' 0 52).isLt

/-- A pattern is made of its three fields. -/
theorem toNat_eq_fields32 (p : Bits32) : p.toNat = (sign32 p).toNat * 2 ^ 31 + exp32 p * 2 ^ 23 + frac32 p := by
  have hlt := p.isLt
  rw [← bitField_exp32, ← bitField_frac32, ← bitField_sign32]
  simp only [bitField, Nat.reduceSub, Nat.reduceAdd]
  omega

theorem toNat_pack32 (neg : Bool) {e f : Nat} (he : e < 2 ^ 8) (hf : f < 2 ^ 23) :
    (pack32 neg e f).toNat = neg.toNat * 2 ^ 31 + e * 2 ^ 23 + f := by
  have hlow : ((BitVec.ofNat 8 e ++ BitVec.ofNat 23 f : BitVec 31)).toNat = e * 2 ^ 23 + f := by
    rw [BitVec.toNat_append, BitVec.toNat_ofNat, BitVec.toNat_ofNat, Nat.mod_eq_of_lt he, Nat.mod_eq_of_lt hf,
      ← Nat.shiftLeft_add_eq_or_of_lt hf, Nat.shiftLeft_eq]
  have hlt : e * 2 ^ 23 + f < 2 ^ 31 := by omega
  rw [pack32, BitVec.toNat_append, hlow, BitVec.toNat_ofBool, ← Nat.shiftLeft_add_eq_or_of_lt hlt, Nat.shiftLeft_eq,
    Nat.add_assoc]

theorem exp32_pack32 (neg : Bool) {e f : Nat} (he : e < 2 ^ 8) (hf : f < 2 ^ 23) : exp32 (pack32 neg e f) = e := by
  rw [← bitField_exp32, toNat_pack32 neg he hf, bitField]
  cases neg <;> simp <;> omega

theorem frac32_pack32 (neg : Bool) {e f : Nat} (he : e < 2 ^ 8) (hf : f < 2 ^ 23) : frac32 (pack32 neg e f) = f := by
  rw [← bitField_frac32, toNat_pack32 neg he hf, bitField]
  cases neg <;> simp <;> omega

theorem sign32_pack32 (neg : Bool) {e f : Nat} (he : e < 2 ^ 8) (hf : f < 2 ^ 23) : sign32 (pack32 neg e f) = neg := by
  rw [sign32_eq_iff, toNat_pack32 neg he hf, bitField]
  cases neg <;> simp <;> omega

/-! ## NaN patterns -/

theorem isNaN64_eq_true_iff (b : Bits64) : isNaN64 b = true ↔ nanPattern64 b := by
  rw [nanPattern64, bitField_exp64, bitField_frac64]
  simp [isNaN64]

theorem isNaN32_eq_true_iff (p : Bits32) : isNaN32 p = true ↔ nanPattern32 p := by
  rw [nanPattern32, bitField_exp32, bitField_frac32]
  simp [isNaN32]

theorem isNaN64_of_not {b : Bits64} (h : ¬ nanPattern64 b) : isNaN64 b = false := by
  rwa [← isNaN64_eq_true_iff, Bool.not_eq_true] at h

theorem isNaN32_of_not {p : Bits32} (h : ¬ nanPattern32 p) : isNaN32 p = false := by
  rwa [← isNaN32_eq_true_iff, Bool.not_eq_true] at h

/-- The fraction a drawn NaN is given: not 0, and still a fraction. -/
theorem nanFraction_spec {f n : Nat} (hn : 1 < n) (hf : f < n) : (if f = 0 then 1 else f) ≠ 0 ∧ (if f = 0 then 1 else f) < n := by
  split
  case isTrue => exact ⟨one_ne_zero, hn⟩
  case isFalse h => exact ⟨h, hf⟩

theorem nanPattern64_nan64Of (d : Bits64) : nanPattern64 (nan64Of d) := by
  obtain ⟨hne, hlt⟩ := nanFraction_spec (by decide) (frac64_lt d)
  rw [nanPattern64, bitField_exp64, bitField_frac64, nan64Of, exp64_pack64 _ (by decide) hlt, frac64_pack64 _ (by decide) hlt]
  exact ⟨rfl, hne⟩

theorem nanPattern32_nan32Of (d : Bits32) : nanPattern32 (nan32Of d) := by
  obtain ⟨hne, hlt⟩ := nanFraction_spec (by decide) (frac32_lt d)
  rw [nanPattern32, bitField_exp32, bitField_frac32, nan32Of, exp32_pack32 _ (by decide) hlt, frac32_pack32 _ (by decide) hlt]
  exact ⟨rfl, hne⟩

/-! ## The value of a finite binary32 pattern, in units of `2^-1074` (log 13) -/

/-- The magnitude of a finite binary32 pattern in units of `2^-1074`. -/
def units32 (p : Bits32) : Nat :=
  if exp32 p = 0 then frac32 p * 2 ^ minSub32Log else (2 ^ 23 + frac32 p) * 2 ^ (exp32 p + (minSub32Log - 1))

theorem value32_eq_units (p : Bits32) : value32 p = signFactor (sign32 p).toNat * units32 p * 2 ^ (-1074 : ℤ) := by
  simp only [value32, units32, bitField_exp32, bitField_frac32, bitField_sign32]
  split_ifs with he
  · have hscale : (-149 : ℤ) = (minSub32Log : ℕ) + (-1074) := by decide
    rw [hscale, zpow_add₀ two_ne_zero, zpow_natCast, Nat.cast_mul, Nat.cast_pow, Nat.cast_ofNat]
    simp only [mul_assoc]
  · have hscale : ((exp32 p : ℤ) - 150) = ((exp32 p + (minSub32Log - 1) : ℕ) : ℤ) + (-1074) := by
      rw [minSub32Log]
      omega
    rw [hscale, zpow_add₀ two_ne_zero, zpow_natCast, Nat.cast_mul, Nat.cast_add, Nat.cast_pow, Nat.cast_pow, Nat.cast_ofNat]
    simp only [mul_assoc]

/-- Every finite binary32 number is a binary64 number (45_float R172). -/
theorem f64_bits64_units32 (p : Bits32) : f64 (bits64 (sign32 p) (units32 p)) = .fin (sign32 p) (units32 p) := by
  have he := exp32_lt p
  have hf := frac32_lt p
  unfold units32
  split
  · exact f64_bits64_mul_pow _ (by omega) (by decide)
  · exact f64_bits64_mul_pow _ (by omega) (by rw [minSub32Log]; omega)

theorem f32Unpack_finite {p : Bits32} (h : finite32 p) (nan : Bits64) : f32Unpack p nan = bits64 (sign32 p) (units32 p) := by
  rw [finite32, bitField_exp32] at h
  rw [f32Unpack, if_neg h, units32]
  split <;> rfl

theorem f32Unpack_nan {p : Bits32} (h : nanPattern32 p) (nan : Bits64) : f32Unpack p nan = nan := by
  rw [nanPattern32, bitField_exp32, bitField_frac32] at h
  obtain ⟨he, hf⟩ := h
  rw [f32Unpack, if_pos he, if_pos hf]

/-- Unpacking a finite pattern is exact: the same value and the same sign. -/
theorem f32Unpack_exact {p : Bits32} (h : finite32 p) (nan : Bits64) :
    finite64 (f32Unpack p nan) ∧ value64 (f32Unpack p nan) = value32 p ∧
      bitField (f32Unpack p nan).toNat 63 63 = bitField p.toNat 31 31 := by
  have hf := f64_bits64_units32 p
  rw [f32Unpack_finite h, value32_eq_units, bitField_sign32]
  obtain ⟨_, _, hfin⟩ := binary64LayoutIsAsStated (bits64 (sign32 p) (units32 p))
  exact hfin _ _ hf

/-- A pattern that is no NaN is a finite number or one of the two infinities. -/
theorem eq_inf32_of_not {p : Bits32} (hfin : ¬ finite32 p) (hnan : ¬ nanPattern32 p) : p = 0x7F800000 ∨ p = 0xFF800000 := by
  have hfields := toNat_eq_fields32 p
  rw [finite32, not_not, bitField_exp32] at hfin
  rw [nanPattern32, bitField_exp32, bitField_frac32, not_and, not_not] at hnan
  rw [hfin, hnan hfin] at hfields
  cases h : sign32 p <;> rw [h] at hfields
  · exact .inl (BitVec.eq_of_toNat_eq hfields)
  · exact .inr (BitVec.eq_of_toNat_eq hfields)

/-! ## The reads -/

/-- `done` after a drawn or undrawn RESULT, written out. -/
theorem setResult_drewIf_done_eq (r : Bits64) (c : Bool) (s : State) :
    ((s.setResult r).drewIf c).done = { s with result := r, status := 0, draws := if c then s.draws + 1 else s.draws } := by
  cases c <;> rfl

/-- The pattern a read of this width at `o` sees, as a bit vector. -/
def State.patternAt (s : State) (w : Nat) (e : Endian) (o n : Nat) : BitVec w :=
  BitVec.ofNat w (patternOf e.isBig n fun j => s.byteAt (o + j))

theorem readF32_good {e : Endian} {c : Ctl} {s : State} {o : Nat} (hov : c.ov = true) (ho : s.off = .holds o)
    (hl : o + 4 ≤ s.len) :
    readF32 e c s =
      .next { s with
        result := f32Unpack (s.patternAt 32 e o 4) s.drawNaN64
        status := 0
        draws := if isNaN32 (s.patternAt 32 e o 4) then s.draws + 1 else s.draws } := by
  unfold readF32
  rw [readCheck_good hov ho hl, State.patternAt, ← val_memRead]
  exact congrArg _ (setResult_drewIf_done_eq _ _ s)

theorem readF64_good {e : Endian} {c : Ctl} {s : State} {o : Nat} (hov : c.ov = true) (ho : s.off = .holds o)
    (hl : o + 8 ≤ s.len) :
    readF64 e c s =
      .next { s with
        result := f64Unpack (s.patternAt 64 e o 8) s.drawNaN64
        status := 0
        draws := if isNaN64 (s.patternAt 64 e o 8) then s.draws + 1 else s.draws } := by
  unfold readF64
  rw [readCheck_good hov ho hl, State.patternAt, ← val_memRead]
  exact congrArg _ (setResult_drewIf_done_eq _ _ s)

theorem exists_endian_of_mem_readF32 {c : Ctl} {s : State} {o : Nat} {q : Instr × Nat}
    (hq : q ∈ [(Instr.readF32LE c, s.lePattern o 4), (Instr.readF32BE c, s.bePattern o 4)]) :
    ∃ e : Endian, exec q.1 s = readF32 e c s ∧ BitVec.ofNat 32 q.2 = s.patternAt 32 e o 4 := by
  obtain rfl | rfl := List.mem_pair.1 hq
  · exact ⟨.little, rfl, rfl⟩
  · exact ⟨.big, rfl, rfl⟩

theorem exists_endian_of_mem_readF64 {c : Ctl} {s : State} {o : Nat} {q : Instr × Nat}
    (hq : q ∈ [(Instr.readF64LE c, s.lePattern o 8), (Instr.readF64BE c, s.bePattern o 8)]) :
    ∃ e : Endian, exec q.1 s = readF64 e c s ∧ BitVec.ofNat 64 q.2 = s.patternAt 64 e o 8 := by
  obtain rfl | rfl := List.mem_pair.1 hq
  · exact ⟨.little, rfl, rfl⟩
  · exact ⟨.big, rfl, rfl⟩

/-- Settles O48, by the kind of pattern the four bytes hold. -/
theorem singleReadsAreExact : Obligations.SingleReadsAreExact := by
  intro c s o hov ho hl q hq
  obtain ⟨e, hexec, hp⟩ := exists_endian_of_mem_readF32 hq
  dsimp only
  rw [hexec, readF32_good hov ho hl, hp]
  generalize s.patternAt 32 e o 4 = p
  refine ⟨fun hfin => ⟨f32Unpack p s.drawNaN64, ?_, f32Unpack_exact hfin _⟩, ?_, ?_, fun hnan => ⟨s.drawNaN64, ?_, ?_⟩⟩
  · have hnan : ¬ nanPattern32 p := fun h => hfin h.1
    simp only [isNaN32_of_not hnan, Bool.false_eq_true, if_false]
  · rintro rfl
    rfl
  · rintro rfl
    rfl
  · simp only [f32Unpack_nan hnan, (isNaN32_eq_true_iff p).2 hnan, if_true]
  · exact nanPattern64_nan64Of _

/-- Settles O49: `f64Unpack` changes a NaN only. -/
theorem doubleReadsReturnThePattern : Obligations.DoubleReadsReturnThePattern := by
  intro c s o hov ho hl q hq
  obtain ⟨e, hexec, hp⟩ := exists_endian_of_mem_readF64 hq
  dsimp only
  rw [hexec, readF64_good hov ho hl, hp, f64Unpack]
  generalize s.patternAt 64 e o 8 = p
  refine ⟨fun hnan => ?_, fun hnan => ⟨s.drawNaN64, ?_, nanPattern64_nan64Of _⟩⟩
  · simp only [isNaN64_of_not hnan, Bool.false_eq_true, if_false]
  · simp only [(isNaN64_eq_true_iff p).2 hnan, if_true]

end Sys2Proof.Machine
end

section
/-! The integer writes (44_integer R132, R134, R150 to R159): UnsignedWritesStoreTheValue, SignedWritesStoreTwosComplement. -/

namespace Sys2Proof.Machine

/-! ## The value of VAL -/

/-- A sign and a number of units, as one integer. -/
def signedUnits (neg : Bool) (units : Nat) : ℤ := if neg then -(units : ℤ) else units

theorem signFactor_mul (neg : Bool) (units : Nat) : signFactor neg.toNat * units = signedUnits neg units := by
  cases neg <;> simp [signFactor, signedUnits]

theorem exists_f64_of_finite {b : Bits64} (h : finite64 b) : ∃ neg units, f64 b = .fin neg units := by
  rw [finite64, bitField_exp64] at h
  exact ⟨_, _, (f64_eq_fin_iff b _ _).2 ⟨h, rfl, rfl⟩⟩

theorem oneUnits_cast : (2 : ℚ) ^ (-1074 : ℤ) = (oneUnits : ℚ)⁻¹ := by
  rw [oneUnits, Nat.cast_pow, Nat.cast_ofNat, zpow_neg]
  norm_cast

theorem oneUnits_pos : 0 < oneUnits := by
  unfold oneUnits
  exact pow_pos two_pos _

/-- A pattern whose value is an integer holds that many times the units of 1. -/
theorem signedUnits_of_value64 {b : Bits64} {neg : Bool} {units : Nat} {x : ℤ} (h : f64 b = .fin neg units)
    (hv : value64 b = x) : signedUnits neg units = x * oneUnits := by
  have hne : (oneUnits : ℚ) ≠ 0 := Nat.cast_ne_zero.2 oneUnits_pos.ne'
  rw [value64_of_f64 h, signFactor_mul, oneUnits_cast, ← div_eq_mul_inv, div_eq_iff hne] at hv
  exact_mod_cast hv

/-- An integer in the range passes the value check of R134. -/
theorem judgeInt_ok {min max x : ℤ} {b : Bits64} (hfin : finite64 b) (hv : value64 b = x) (hlo : min ≤ x) (hhi : x ≤ max) :
    judgeInt min max b = .ok x := by
  obtain ⟨neg, units, hf⟩ := exists_f64_of_finite hfin
  have hpos : (0 : ℤ) ≤ oneUnits := Int.natCast_nonneg _
  have hunits : signedUnits neg units = x * oneUnits := signedUnits_of_value64 hf hv
  have hrange : ¬ (signedUnits neg units < min * oneUnits ∨ signedUnits neg units > max * oneUnits) := by
    rw [hunits, not_or, not_lt, gt_iff_lt, not_lt]
    exact ⟨mul_le_mul_of_nonneg_right hlo hpos, mul_le_mul_of_nonneg_right hhi hpos⟩
  have habs : units = x.natAbs * oneUnits := by
    have h := congrArg Int.natAbs hunits
    rw [Int.natAbs_mul, Int.natAbs_natCast] at h
    cases neg <;> simpa [signedUnits] using h
  have hmod : ¬ units % oneUnits ≠ 0 := by
    rw [habs, Nat.mul_mod_left]
    exact fun h => h rfl
  have hquot : signedUnits neg (units / oneUnits) = x := by
    refine mul_right_cancel₀ (Int.natCast_ne_zero.2 oneUnits_pos.ne') (hunits ▸ ?_)
    have hdiv : ((units / oneUnits : ℕ) : ℤ) * oneUnits = units := by
      rw [habs, Nat.mul_div_cancel _ oneUnits_pos, Nat.cast_mul]
    cases neg <;> simp only [signedUnits, if_true, if_false, Bool.false_eq_true, neg_mul, hdiv]
  rw [judgeInt, hf]
  exact (if_neg hrange).trans ((if_neg hmod).trans (congrArg Except.ok hquot))

/-! ## The stored pattern -/

theorem min_max_bounds (ty : IntType) : -2 ^ ty.bits ≤ ty.min ∧ ty.max < 2 ^ ty.bits := by cases ty <;> decide

/-- The stored pattern is the integer modulo `2^bits` (44_integer R132). -/
theorem toPattern_eq_emod {ty : IntType} {x : ℤ} (hlo : ty.min ≤ x) (hhi : x ≤ ty.max) : (ty.toPattern x : ℤ) = x % 2 ^ ty.bits := by
  obtain ⟨hmin, hmax⟩ := min_max_bounds ty
  unfold IntType.toPattern
  split
  case isTrue hneg =>
    have hwrap : 2 ^ ty.bits + x = (2 ^ ty.bits + x) % 2 ^ ty.bits := (Int.emod_eq_of_lt (by omega) (by omega)).symm
    rw [Int.toNat_of_nonneg (by omega), hwrap, Int.add_emod_left]
  case isFalse hneg => rw [Int.toNat_of_nonneg (by omega), Int.emod_eq_of_lt (by omega) (by omega)]

/-! ## The writes -/

theorem memWrite_drewIf_done_eq (o : Nat) (bs : List Byte) (c : Bool) (s : State) :
    ((s.memWrite o bs).drewIf c).done =
      { s with buf := s.buf.writeBytes o bs, status := 0, draws := if c then s.draws + 1 else s.draws } := by
  cases c <;> rfl

theorem writeInt_good {ty : IntType} {e : Endian} {c : Ctl} {s : State} {o : Nat} {b : Bits64} {x : ℤ} (hov : c.ov = true)
    (hvv : c.vv = true) (ho : s.off = .holds o) (hb : s.val = .holds b) (hl : o + ty.bytes ≤ s.len)
    (hx : judgeInt ty.min ty.max b = .ok x) :
    writeInt ty e c s =
      .next { s with buf := s.buf.writeBytes o (e.bytes ty.bytes (ty.toPattern x)), status := 0 } := by
  rw [writeInt, writeCheckInt, writeCheck_good hov hvv ho hb hl, hx]
  exact congrArg _ (memWrite_drewIf_done_eq _ _ false s)

/-- A write command of an integer type stores the two's-complement pattern in its byte order. -/
theorem writesInteger_of_writeInt {i : Instr} {ty : IntType} {e : Endian} {order : Nat → Nat}
    (hexec : ∀ s, exec i s = writeInt ty e i.ctl s) (horder : ∀ j, bytePlace e.isBig ty.bytes j = order j) :
    WritesInteger i ty.bytes ty.min ty.max order := by
  intro s o b x hwf hov hvv ho hb hl hfin hv hlo hhi
  obtain ⟨hout, hin⟩ := writeBytes_pattern hwf e o ty.bytes (ty.toPattern x)
  refine ⟨_, (hexec s).trans (writeInt_good hov hvv ho hb hl (judgeInt_ok hfin hv hlo hhi)), hout, fun j hj => ?_⟩
  rw [hin j hj, horder, ← IntType.bits, ← toPattern_eq_emod hlo hhi]
  push_cast
  rfl

/-- Settles O40: an unsigned type's pattern is the value. -/
theorem unsignedWritesStoreTheValue : Obligations.UnsignedWritesStoreTheValue := fun _ =>
  ⟨writesInteger_of_writeInt (ty := .u8) (e := .little) (fun _ => rfl) fun _ => rfl,
    writesInteger_of_writeInt (ty := .u16) (e := .little) (fun _ => rfl) fun _ => rfl,
    writesInteger_of_writeInt (ty := .u16) (e := .big) (fun _ => rfl) fun _ => rfl,
    writesInteger_of_writeInt (ty := .u32) (e := .little) (fun _ => rfl) fun _ => rfl,
    writesInteger_of_writeInt (ty := .u32) (e := .big) (fun _ => rfl) fun _ => rfl⟩

/-- Settles O41: a signed type's pattern is the value modulo `2^bits`. -/
theorem signedWritesStoreTwosComplement : Obligations.SignedWritesStoreTwosComplement := fun _ =>
  ⟨writesInteger_of_writeInt (ty := .i8) (e := .little) (fun _ => rfl) fun _ => rfl,
    writesInteger_of_writeInt (ty := .i16) (e := .little) (fun _ => rfl) fun _ => rfl,
    writesInteger_of_writeInt (ty := .i16) (e := .big) (fun _ => rfl) fun _ => rfl,
    writesInteger_of_writeInt (ty := .i32) (e := .little) (fun _ => rfl) fun _ => rfl,
    writesInteger_of_writeInt (ty := .i32) (e := .big) (fun _ => rfl) fun _ => rfl⟩

end Sys2Proof.Machine
end

section
/-! The float writes of every value that needs no rounding (45_float R173, R175, R176, R184 to R187): DoubleWritesStoreThePattern,
SingleWritesOfSpecialValues. -/

namespace Sys2Proof.Machine

theorem judgeFloat_ok {m : Nat} {b : Bits64} (h : ∀ neg units, f64 b = .fin neg units → units ≤ m) : judgeFloat m b = .ok b := by
  unfold judgeFloat
  split
  case h_1 neg units hf => exact if_neg (not_lt.2 (h neg units hf))
  case h_2 => rfl

/-- No finite binary64 number is beyond the largest one. -/
theorem units_le_maxF64Units {b : Bits64} {neg : Bool} {units : Nat} (h : f64 b = .fin neg units) : units ≤ maxF64Units := by
  obtain ⟨hfin, _, rfl⟩ := (f64_eq_fin_iff b neg units).1 h
  have he := exp64_lt b
  have hf := frac64_lt b
  unfold maxF64Units
  split
  · exact le_trans (by omega) (Nat.le_mul_of_pos_right (2 ^ 53 - 1) (pow_pos two_pos _))
  · exact Nat.mul_le_mul (by omega) (pow_le_pow_right₀ one_le_two (by omega))

theorem writeF32_good {e : Endian} {c : Ctl} {s : State} {o : Nat} {b : Bits64} (hov : c.ov = true) (hvv : c.vv = true)
    (ho : s.off = .holds o) (hb : s.val = .holds b) (hl : o + 4 ≤ s.len)
    (hx : ∀ neg units, f64 b = .fin neg units → units ≤ maxF32Units) :
    writeF32 e c s =
      .next { s with
        buf := s.buf.writeBytes o (e.bytes 4 (f32Pack s.params (f64 b) s.drawNaN32).toNat)
        status := 0
        draws := if isNaN64 b then s.draws + 1 else s.draws } := by
  rw [writeF32, writeCheckFloat, writeCheck_good hov hvv ho hb hl, judgeFloat_ok hx]
  exact congrArg _ (memWrite_drewIf_done_eq _ _ _ s)

theorem writeF64_good {e : Endian} {c : Ctl} {s : State} {o : Nat} {b : Bits64} (hov : c.ov = true) (hvv : c.vv = true)
    (ho : s.off = .holds o) (hb : s.val = .holds b) (hl : o + 8 ≤ s.len) :
    writeF64 e c s =
      .next { s with
        buf := s.buf.writeBytes o (e.bytes 8 (f64Pack s.params b s.drawNaN64).toNat)
        status := 0
        draws := if isNaN64 b then s.draws + 1 else s.draws } := by
  rw [writeF64, writeCheckFloat, writeCheck_good hov hvv ho hb hl, judgeFloat_ok fun _ _ h => units_le_maxF64Units h]
  exact congrArg _ (memWrite_drewIf_done_eq _ _ _ s)

/-- A command that ends by writing the bytes of a pattern stores that pattern. -/
theorem storesPattern_of_exec {i : Instr} {s : State} {e : Endian} {o n p d : Nat} (hwf : s.buf.wf = true)
    (h : exec i s = .next { s with buf := s.buf.writeBytes o (e.bytes n p), status := 0, draws := d }) :
    StoresPattern i s o n e.isBig p d := ⟨_, h, writeBytes_pattern hwf e o n p⟩

theorem exists_endian_of_mem_writeF32 {c : Ctl} {q : Instr × Bool}
    (hq : q ∈ [(Instr.writeF32LE c, false), (Instr.writeF32BE c, true)]) :
    ∃ e : Endian, (∀ s, exec q.1 s = writeF32 e c s) ∧ q.2 = e.isBig := by
  obtain rfl | rfl := List.mem_pair.1 hq
  · exact ⟨.little, fun _ => rfl, rfl⟩
  · exact ⟨.big, fun _ => rfl, rfl⟩

theorem exists_endian_of_mem_writeF64 {c : Ctl} {q : Instr × Bool}
    (hq : q ∈ [(Instr.writeF64LE c, false), (Instr.writeF64BE c, true)]) :
    ∃ e : Endian, (∀ s, exec q.1 s = writeF64 e c s) ∧ q.2 = e.isBig := by
  obtain rfl | rfl := List.mem_pair.1 hq
  · exact ⟨.little, fun _ => rfl, rfl⟩
  · exact ⟨.big, fun _ => rfl, rfl⟩

/-! ## Zeros, infinities and NaNs -/

theorem f64_of_nan {b : Bits64} (h : nanPattern64 b) : f64 b = .nan := (binary64LayoutIsAsStated b).1.2 h

theorem f64_posZero : f64 0 = .fin false 0 := by decide

theorem f64_negZero : f64 0x8000000000000000 = .fin true 0 := by decide

theorem f64_posInf : f64 0x7FF0000000000000 = .inf false := by decide

theorem f64_negInf : f64 0xFFF0000000000000 = .inf true := by decide

theorem toNat_eq_fields64 (b : Bits64) : b.toNat = (sign64 b).toNat * 2 ^ 63 + exp64 b * 2 ^ 52 + frac64 b := by
  have hlt := b.isLt
  rw [← bitField_exp64, ← bitField_frac64, ← bitField_sign64]
  simp only [bitField, Nat.reduceSub, Nat.reduceAdd]
  omega

/-- Only one pattern is -0.0. -/
theorem eq_negZero_of_f64 {b : Bits64} (h : f64 b = .fin true 0) : b = 0x8000000000000000 := by
  obtain ⟨_, hsign, hunits⟩ := (f64_eq_fin_iff b true 0).1 h
  have hfields := toNat_eq_fields64 b
  split at hunits
  case isTrue hexp =>
    rw [hsign, hexp, ← hunits] at hfields
    exact BitVec.eq_of_toNat_eq hfields
  case isFalse => exact absurd hunits.symm (Nat.mul_ne_zero (by omega) (Nat.two_pow_pos _).ne')

theorem f64Pack_nan {b : Bits64} (h : nanPattern64 b) (p : Params) (nan : Bits64) : f64Pack p b nan = nan := by
  rw [f64Pack, f64_of_nan h]

theorem f64Pack_negZero (p : Params) (nan : Bits64) :
    (f64Pack p 0x8000000000000000 nan).toNat = if p.negZeroWrite = .keepSign then 0x8000000000000000 else 0 := by
  rw [f64Pack, f64_negZero]
  cases p.negZeroWrite <;> rfl

/-- Every other pattern is stored bit for bit (45_float R175). -/
theorem f64Pack_other {b : Bits64} (hnan : ¬ nanPattern64 b) (hz : b ≠ 0x8000000000000000) (p : Params) (nan : Bits64) :
    f64Pack p b nan = b := by
  unfold f64Pack
  split
  case h_1 h => exact absurd ((binary64LayoutIsAsStated b).1.1 h) hnan
  case h_2 h _ => exact absurd (eq_negZero_of_f64 h) hz
  case h_3 => rfl

/-- Settles O50, by the kind of pattern in VAL; no finite binary64 number is refused. -/
theorem doubleWritesStoreThePattern : Obligations.DoubleWritesStoreThePattern := by
  intro c s o b hov hvv ho hb hl hwf q hq
  obtain ⟨e, hexec, hbig⟩ := exists_endian_of_mem_writeF64 hq
  have hw := storesPattern_of_exec hwf ((hexec s).trans (writeF64_good hov hvv ho hb hl))
  rw [← hbig] at hw
  refine ⟨fun hnan hz => ?_, fun hz => ?_, fun hnan => ⟨s.drawNaN64, nanPattern64_nan64Of _, ?_⟩⟩
  · rwa [f64Pack_other hnan hz, isNaN64_of_not hnan] at hw
  · rw [hz, f64Pack_negZero] at hw
    exact hw
  · rwa [f64Pack_nan hnan, (isNaN64_eq_true_iff b).2 hnan] at hw

theorem f32Pack_negZero (p : Params) (nan : Bits32) :
    (f32Pack p (.fin true 0) nan).toNat = if p.negZeroWrite = .keepSign then 0x80000000 else 0 := by
  unfold f32Pack
  cases p.negZeroWrite <;> rfl

theorem f32Pack_posZero (p : Params) (nan : Bits32) : f32Pack p (.fin false 0) nan = 0 := by
  unfold f32Pack
  cases p.negZeroWrite <;> rfl

theorem f32Pack_inf (p : Params) (neg : Bool) (nan : Bits32) :
    (f32Pack p (.inf neg) nan).toNat = if neg then 0xFF800000 else 0x7F800000 := by
  cases neg <;> rfl

/-- A single-precision write at a good offset of a value that is zero, infinite or a NaN. -/
theorem storesPattern_writeF32_special {i : Instr} {e : Endian} {c : Ctl} {s : State} {o : Nat} {b : Bits64}
    (hexec : ∀ s, exec i s = writeF32 e c s) (hov : c.ov = true) (hvv : c.vv = true)
    (ho : s.off = .holds o) (hb : s.val = .holds b) (hl : o + 4 ≤ s.len) (hwf : s.buf.wf = true)
    (hspecial : ∀ neg units, f64 b = .fin neg units → units = 0) :
    StoresPattern i s o 4 e.isBig (f32Pack s.params (f64 b) s.drawNaN32).toNat (if isNaN64 b then s.draws + 1 else s.draws) :=
  storesPattern_of_exec hwf ((hexec s).trans (writeF32_good hov hvv ho hb hl fun neg units h => by
    rw [hspecial neg units h]
    exact Nat.zero_le _))

/-- Settles O51, by the kind of value `f64` makes of VAL. -/
theorem singleWritesOfSpecialValues : Obligations.SingleWritesOfSpecialValues := by
  intro c s o b hov hvv ho hb hl hwf q hq
  obtain ⟨e, hexec, hbig⟩ := exists_endian_of_mem_writeF32 hq
  have hw := storesPattern_writeF32_special hexec hov hvv ho hb hl hwf
  rw [← hbig] at hw
  refine ⟨?_, ?_, ?_, ?_, fun hnan => ⟨s.drawNaN32, nanPattern32_nan32Of _, ?_⟩⟩
  · rintro rfl
    rw [f64_posZero, f32Pack_posZero] at hw
    exact hw fun _ _ h => by cases h; rfl
  · rintro rfl
    rw [f64_negZero, f32Pack_negZero] at hw
    exact hw fun _ _ h => by cases h; rfl
  · rintro rfl
    rw [f64_posInf, f32Pack_inf] at hw
    exact hw nofun
  · rintro rfl
    rw [f64_negInf, f32Pack_inf] at hw
    exact hw nofun
  · rw [f64_of_nan hnan, (isNaN64_eq_true_iff b).2 hnan] at hw
    exact hw nofun

end Sys2Proof.Machine
end

section
/-! The single-precision packer rounds to the nearest binary32 number (45_float R173, R174): SingleWritesStoreTheNearest. All
distances are taken in units of `2^-1074` (log 13), where they are integers. -/

namespace Sys2Proof.Machine

/-! ## Rounding to a multiple -/

/-- `r` is the better choice for `u` than `a`: nearer, or as near and preferred by the tie rule, where `even` says that `r` is the
even one (45_float R174). -/
def Beats (ties : Ties) (even : Prop) (r u : Nat) (a : ℤ) : Prop :=
  |(r : ℤ) - u| ≤ |a - u| ∧ (|(r : ℤ) - u| = |a - u| → a ≠ r → if ties = .away then |a| < r else even)

/-- What is farther than something beaten is beaten. -/
theorem Beats.of_farther {ties : Ties} {even : Prop} {r u : Nat} {a c : ℤ} (hc : Beats ties even r u c)
    (h : |c - u| < |a - u|) : Beats ties even r u a :=
  ⟨(hc.1.trans_lt h).le, fun heq => absurd heq (hc.1.trans_lt h).ne⟩

/-- `round_nearest` is the floor, the next number, or at a tie the one of the two that the rule prefers. -/
theorem roundNearest_cases (ties : Ties) (num den : Nat) :
    (2 * (num % den) < den ∧ roundNearest ties num den = num / den) ∨
      (den < 2 * (num % den) ∧ roundNearest ties num den = num / den + 1) ∨
      (2 * (num % den) = den ∧ if ties = .away then roundNearest ties num den = num / den + 1
        else roundNearest ties num den % 2 = 0 ∧
          (roundNearest ties num den = num / den ∨ roundNearest ties num den = num / den + 1)) := by
  rcases Nat.lt_trichotomy (2 * (num % den)) den with hlt | heq | hgt
  · exact .inl ⟨hlt, by simp only [roundNearest, if_neg (Nat.lt_asymm hlt), if_pos hlt]⟩
  · refine .inr (.inr ⟨heq, ?_⟩)
    have htie : ¬ 2 * (num % den) > den ∧ ¬ 2 * (num % den) < den := by omega
    cases ties with
    | away => simp only [roundNearest, if_neg htie.1, if_neg htie.2, if_true]
    | even =>
      simp only [roundNearest, if_neg htie.1, if_neg htie.2, reduceCtorEq, if_false]
      split <;> omega
  · exact .inr (.inl ⟨hgt, by simp only [roundNearest, if_pos hgt]⟩)

theorem roundNearest_bounds (ties : Ties) (num den : Nat) :
    num / den ≤ roundNearest ties num den ∧ roundNearest ties num den ≤ num / den + 1 := by
  obtain ⟨_, h⟩ | ⟨_, h⟩ | ⟨_, h⟩ := roundNearest_cases ties num den
  · omega
  · omega
  · split at h <;> omega

/-- A multiple of `den` against the multiple `den * f`: below it, that one, the next one, or above both. -/
theorem mul_int_cases {den : ℤ} (hden : 0 < den) (f k : ℤ) :
    den * k ≤ den * f - den ∨ den * k = den * f ∨ den * k = den * f + den ∨ den * f + 2 * den ≤ den * k := by
  obtain h | rfl | rfl | h : k ≤ f - 1 ∨ k = f ∨ k = f + 1 ∨ f + 2 ≤ k := by omega
  · exact .inl (by nlinarith)
  · exact .inr (.inl rfl)
  · exact .inr (.inr (.inl (mul_add_one den f)))
  · exact .inr (.inr (.inr (by nlinarith)))

/-- `round_nearest` beats every multiple of the quantum. -/
theorem roundNearest_beats_multiple (ties : Ties) (num : Nat) {den : Nat} (hden : 0 < den) {a : ℤ} (ha : (den : ℤ) ∣ a) :
    Beats ties (roundNearest ties num den % 2 = 0) (roundNearest ties num den * den) num a := by
  obtain ⟨k, rfl⟩ := ha
  have hnum : (num : ℤ) = den * (num / den : ℕ) + (num % den : ℕ) := by exact_mod_cast (Nat.div_add_mod num den).symm
  have hrest : num % den < den := Nat.mod_lt num hden
  have hfloor : 0 ≤ (den : ℤ) * (num / den : ℕ) := by positivity
  have hk := mul_int_cases (Int.natCast_pos.2 hden) (num / den : ℕ) k
  have hdown : roundNearest ties num den = num / den → ((roundNearest ties num den * den : ℕ) : ℤ) = den * (num / den : ℕ) := by
    intro h
    rw [h, Nat.mul_comm, Nat.cast_mul]
  have hup : roundNearest ties num den = num / den + 1 →
      ((roundNearest ties num den * den : ℕ) : ℤ) = den * (num / den : ℕ) + den := by
    intro h
    rw [h, Nat.mul_comm, Nat.cast_mul, Nat.cast_add_one, mul_add_one]
  unfold Beats
  simp only [abs_eq_max_neg]
  obtain ⟨hd, h⟩ | ⟨hd, h⟩ | ⟨hd, h⟩ := roundNearest_cases ties num den
  · have hr := hdown h
    exact ⟨by omega, fun heq hne => by omega⟩
  · have hr := hup h
    exact ⟨by omega, fun heq hne => by omega⟩
  · split at h
    case isTrue haway =>
      have hr := hup h
      exact ⟨by omega, fun heq hne => by rw [if_pos haway]; omega⟩
    case isFalse heven =>
      obtain ⟨heven', h⟩ := h
      have hr := h.imp hdown hup
      exact ⟨by omega, fun _ _ => by rwa [if_neg heven]⟩

/-! ## The quantum and the fields -/

/-- The quantum of a magnitude is `2 ^ quantumLog32` units (45_float R173). -/
def quantumLog32 (units : Nat) : Nat := if units.log2 ≥ minNorm32Log then units.log2 - 23 else minSub32Log

/-- The pattern of a magnitude that binary32 holds (45_float R173). -/
def pack32Units (neg : Bool) (r : Nat) : Bits32 :=
  if r ≥ 2 ^ minNorm32Log then
    pack32 neg (r.log2 - (minNorm32Log - 1))
      (r / 2 ^ (r.log2 - (minNorm32Log - 1) + (minSub32Log - 1)) - 2 ^ 23)
  else pack32 neg 0 (r / 2 ^ minSub32Log)

/-- The packer rounds to the quantum, then packs. -/
theorem f32PackFinite_eq (ties : Ties) (neg : Bool) (units : Nat) :
    f32PackFinite ties neg units =
      pack32Units neg (roundNearest ties units (2 ^ quantumLog32 units) * 2 ^ quantumLog32 units) := by
  have hquantum : (if units.log2 ≥ minNorm32Log then 2 ^ (units.log2 - 23) else 2 ^ minSub32Log) = 2 ^ quantumLog32 units := by
    rw [quantumLog32, apply_ite (2 ^ ·)]
  simp only [f32PackFinite, hquantum, pack32Units]

/-- The quantum leaves 24 bits, and fewer only in the subnormal range. -/
theorem quantumLog32_spec {units : Nat} (h : units ≠ 0) :
    minSub32Log ≤ quantumLog32 units ∧ units < 2 ^ (quantumLog32 units + 24) ∧
      (2 ^ (quantumLog32 units + 23) ≤ units ∨ quantumLog32 units = minSub32Log) := by
  obtain ⟨hlo, hhi⟩ := (Nat.log2_eq_iff h).1 rfl
  have hsub : minSub32Log = 925 := rfl
  have hnorm : minNorm32Log = 948 := rfl
  unfold quantumLog32
  split
  case isTrue hn =>
    refine ⟨by omega, ?_, .inl ?_⟩
    · rwa [show units.log2 - 23 + 24 = units.log2 + 1 by omega]
    · rwa [Nat.sub_add_cancel (by omega)]
  case isFalse hn => exact ⟨le_rfl, hhi.trans_le (pow_le_pow_right₀ one_le_two (by omega)), .inr rfl⟩

/-- `p` is the finite pattern of `r` units with sign `neg`, and its last bit is 0 if the rounded quotient `n` is even. -/
structure PacksAs (neg : Bool) (r n : Nat) (p : Bits32) : Prop where
  finite : finite32 p
  sign : sign32 p = neg
  units : units32 p = r
  even : n % 2 = 0 → p.toNat % 2 = 0

theorem packsAs_pack32 (neg : Bool) {e f n : Nat} (he : e < 255) (hf : f < 2 ^ 23) (hn : n % 2 = 0 → f % 2 = 0) :
    PacksAs neg (if e = 0 then f * 2 ^ minSub32Log else (2 ^ 23 + f) * 2 ^ (e + (minSub32Log - 1))) n (pack32 neg e f) where
  finite := by
    rw [finite32, bitField_exp32, exp32_pack32 neg (by omega) hf]
    omega
  sign := sign32_pack32 neg (by omega) hf
  units := by rw [units32, exp32_pack32 neg (by omega) hf, frac32_pack32 neg (by omega) hf]
  even h := by
    have := hn h
    rw [toNat_pack32 neg (by omega) hf]
    omega

/-- A magnitude below the normal range. -/
theorem pack32Units_subnormal (neg : Bool) {n : Nat} (hn : n < 2 ^ 23) :
    pack32Units neg (n * 2 ^ minSub32Log) = pack32 neg 0 n := by
  have hpos : 0 < 2 ^ minSub32Log := pow_pos two_pos _
  have hlt : ¬ n * 2 ^ minSub32Log ≥ 2 ^ minNorm32Log := by
    rw [show minNorm32Log = 23 + minSub32Log from rfl, pow_add, ge_iff_le, not_le]
    exact Nat.mul_lt_mul_of_pos_right hn hpos
  rw [pack32Units, if_neg hlt, Nat.mul_div_cancel n hpos]

/-- A magnitude of 24 bits, by its exponent. -/
theorem pack32Units_normal (neg : Bool) {n e : Nat} (he : e ≠ 0) (hlo : 2 ^ 23 ≤ n) (hhi : n < 2 ^ 24) :
    pack32Units neg (n * 2 ^ (e + (minSub32Log - 1))) = pack32 neg e (n - 2 ^ 23) := by
  have hsub : minSub32Log = 925 := rfl
  have hnorm : minNorm32Log = 948 := rfl
  have hlog : (n * 2 ^ (e + (minSub32Log - 1))).log2 = 23 + (e + (minSub32Log - 1)) := by
    rw [log2_mul_two_pow (by omega), (Nat.log2_eq_iff (by omega)).2 ⟨hlo, hhi⟩]
  have hge : n * 2 ^ (e + (minSub32Log - 1)) ≥ 2 ^ minNorm32Log := by
    refine le_trans (pow_le_pow_right₀ one_le_two (n := 23 + (e + (minSub32Log - 1))) (by omega)) ?_
    rw [pow_add]
    exact Nat.mul_le_mul_right _ hlo
  have hexp : 23 + (e + (minSub32Log - 1)) - (minNorm32Log - 1) = e := by omega
  rw [pack32Units, if_pos hge, hlog, hexp, Nat.mul_div_cancel n (pow_pos two_pos _)]

theorem packsAs_subnormal (neg : Bool) {n : Nat} (hn : n < 2 ^ 23) :
    PacksAs neg (n * 2 ^ minSub32Log) n (pack32Units neg (n * 2 ^ minSub32Log)) := by
  have h := packsAs_pack32 neg (e := 0) (n := n) (by decide) hn id
  rw [if_pos rfl] at h
  rwa [pack32Units_subnormal neg hn]

theorem packsAs_normal (neg : Bool) {n k : Nat} (hk : minSub32Log ≤ k) (hk' : k ≤ 1178) (hlo : 2 ^ 23 ≤ n) (hhi : n < 2 ^ 24) :
    PacksAs neg (n * 2 ^ k) n (pack32Units neg (n * 2 ^ k)) := by
  have hsub : minSub32Log = 925 := rfl
  obtain ⟨e, rfl⟩ : ∃ e, k = e + (minSub32Log - 1) := ⟨k - (minSub32Log - 1), by omega⟩
  have he : e ≠ 0 := by omega
  have h := packsAs_pack32 neg (e := e) (f := n - 2 ^ 23) (n := n) (by omega) (by omega) (by omega)
  rw [if_neg he, Nat.add_sub_cancel' hlo] at h
  rwa [pack32Units_normal neg he hlo hhi]

theorem maxF32Units_lt : maxF32Units < 2 ^ (24 + (104 + 1074)) := by
  rw [maxF32Units, pow_add 2 24]
  exact Nat.mul_lt_mul_of_pos_right (by decide) (pow_pos two_pos _)

/-- The exponent of a power of two that is at most MAXF32. -/
theorem lt_of_two_pow_le_maxF32Units {j : Nat} (h : 2 ^ j ≤ maxF32Units) : j < 1202 := by
  have hmax := maxF32Units_lt
  generalize hm : 24 + (104 + 1074) = m at hmax
  have hlt : j < m := (pow_lt_pow_iff_right₀ one_lt_two).1 (h.trans_lt hmax)
  omega

/-- Every rounded magnitude within the range is packed exactly; a carry into the next binade leaves an even pattern. -/
theorem packsAs_rounded (neg : Bool) {n k : Nat} (hk : minSub32Log ≤ k) (hlo : 2 ^ 23 ≤ n ∨ k = minSub32Log) (hhi : n ≤ 2 ^ 24)
    (hmax : n * 2 ^ k ≤ maxF32Units) : PacksAs neg (n * 2 ^ k) n (pack32Units neg (n * 2 ^ k)) := by
  have hsub : minSub32Log = 925 := rfl
  by_cases hsmall : n < 2 ^ 23
  · obtain rfl : k = minSub32Log := hlo.resolve_left (by omega)
    exact packsAs_subnormal neg hsmall
  · have hk23 : 23 + k < 1202 := by
      refine lt_of_two_pow_le_maxF32Units (le_trans ?_ hmax)
      rw [pow_add]
      exact Nat.mul_le_mul_right _ (by omega)
    obtain hlt | rfl := Nat.lt_or_eq_of_le hhi
    · exact packsAs_normal neg hk (by omega) (by omega) hlt
    · have hk24 : 24 + k < 1202 := by
        refine lt_of_two_pow_le_maxF32Units (le_trans ?_ hmax)
        rw [pow_add]
      rw [show 2 ^ 24 * 2 ^ k = 2 ^ 23 * 2 ^ (k + 1) by rw [← pow_add, ← pow_add]; congr 1; omega]
      obtain ⟨hfin, hsign, hunits, heven⟩ :=
        packsAs_normal neg (n := 2 ^ 23) (k := k + 1) (by omega) (by omega) (by decide) (by decide)
      exact ⟨hfin, hsign, hunits, fun _ => heven (by decide)⟩

/-! ## Every other binary32 number -/

/-- A binary32 number is a multiple of the quantum, or it lies below the binade of a normal `u`. -/
theorem units32_dvd_or_lt (p : Bits32) {k : Nat} (hk : minSub32Log ≤ k) :
    2 ^ k ∣ units32 p ∨ (units32 p < 2 ^ (k + 23) ∧ k ≠ minSub32Log) := by
  have hf := frac32_lt p
  have hsub : minSub32Log = 925 := rfl
  unfold units32
  split
  case isTrue he =>
    by_cases hk' : k = minSub32Log
    · exact .inl (hk' ▸ Nat.dvd_mul_left _ _)
    · refine .inr ⟨?_, hk'⟩
      rw [pow_add, Nat.mul_comm (2 ^ k)]
      exact Nat.mul_lt_mul_of_lt_of_le hf (pow_le_pow_right₀ one_le_two hk) (pow_pos two_pos _)
  case isFalse he =>
    by_cases hk' : k ≤ exp32 p + (minSub32Log - 1)
    · exact .inl (Dvd.dvd.mul_left (pow_dvd_pow 2 hk') _)
    · refine .inr ⟨?_, by omega⟩
      refine lt_of_lt_of_le (Nat.mul_lt_mul_of_pos_right (show 2 ^ 23 + frac32 p < 2 ^ 24 by omega) (pow_pos two_pos _)) ?_
      rw [← pow_add]
      exact pow_le_pow_right₀ one_le_two (by omega)

theorem units32_le_maxF32Units {p : Bits32} (h : finite32 p) : units32 p ≤ maxF32Units := by
  have hf := frac32_lt p
  have he := exp32_lt p
  have hsub : minSub32Log = 925 := rfl
  rw [finite32, bitField_exp32] at h
  unfold units32 maxF32Units
  split
  · exact Nat.mul_le_mul (by omega) (pow_le_pow_right₀ one_le_two (by omega))
  · exact Nat.mul_le_mul (by omega) (pow_le_pow_right₀ one_le_two (by omega))

theorem exists_units32_eq_maxF32Units : ∃ p, units32 p = maxF32Units :=
  ⟨_, (packsAs_normal false (n := 2 ^ 24 - 1) (k := 104 + 1074) (by decide) (by decide) (by decide) (by decide)).units⟩

theorem pack32_fields (p : Bits32) : pack32 (sign32 p) (exp32 p) (frac32 p) = p :=
  BitVec.eq_of_toNat_eq ((toNat_pack32 _ (exp32_lt p) (frac32_lt p)).trans (toNat_eq_fields32 p).symm)

/-- A pattern is the one its sign and its magnitude are packed to. -/
theorem pack32Units_units32 (p : Bits32) : pack32Units (sign32 p) (units32 p) = p := by
  have hf := frac32_lt p
  unfold units32
  split
  case isTrue he => rw [pack32Units_subnormal _ hf, ← he, pack32_fields]
  case isFalse he => rw [pack32Units_normal _ he (by omega) (by omega), Nat.add_sub_cancel_left, pack32_fields]

/-- The rounded magnitude beats every binary32 number of either sign: a multiple of the quantum by `round_nearest`, any other
because the least number of `u`'s binade, or 0, stands between. -/
theorem rounded_beats {ties : Ties} {u : Nat} (hu : u ≠ 0) (neg : Bool) (p : Bits32) :
    Beats ties (roundNearest ties u (2 ^ quantumLog32 u) % 2 = 0)
      (roundNearest ties u (2 ^ quantumLog32 u) * 2 ^ quantumLog32 u) u (signedUnits neg (units32 p)) := by
  obtain ⟨hk, _, hbinade⟩ := quantumLog32_spec hu
  have hmul {a : ℤ} := roundNearest_beats_multiple ties u (den := 2 ^ quantumLog32 u) (pow_pos two_pos _) (a := a)
  obtain hdvd | ⟨hlt, hne⟩ := units32_dvd_or_lt p hk
  · refine hmul ?_
    have hdvd := Int.natCast_dvd_natCast.2 hdvd
    cases neg
    · exact hdvd
    · exact (dvd_neg).2 hdvd
  · have hle := hbinade.resolve_right hne
    refine (hmul (a := (2 ^ (quantumLog32 u + 23) : ℕ)) (Int.natCast_dvd_natCast.2 (pow_dvd_pow 2 (by omega)))).of_farther ?_
    generalize 2 ^ (quantumLog32 u + 23) = c at hlt hle
    simp only [abs_eq_max_neg]
    cases neg <;> simp only [signedUnits, if_true, Bool.false_eq_true, if_false] <;> omega

/-- What the packer makes of a magnitude within the range (45_float R173, R174). -/
theorem f32PackFinite_spec (ties : Ties) (neg : Bool) {u : Nat} (hu : u ≠ 0) (hmax : u ≤ maxF32Units) :
    ∃ n, PacksAs neg (n * 2 ^ quantumLog32 u) n (f32PackFinite ties neg u) ∧
      ∀ s p, Beats ties (n % 2 = 0) (n * 2 ^ quantumLog32 u) u (signedUnits s (units32 p)) := by
  obtain ⟨hk, hhi, hbinade⟩ := quantumLog32_spec hu
  have hpos : 0 < 2 ^ quantumLog32 u := pow_pos two_pos _
  obtain ⟨hfloor, hceil⟩ := roundNearest_bounds ties u (2 ^ quantumLog32 u)
  have hbeats := rounded_beats (ties := ties) hu
  refine ⟨roundNearest ties u (2 ^ quantumLog32 u), ?_, hbeats⟩
  rw [f32PackFinite_eq]
  refine packsAs_rounded neg hk ?_ ?_ ?_
  · refine hbinade.imp_left fun hlo => le_trans ((Nat.le_div_iff_mul_le hpos).2 ?_) hfloor
    rwa [← pow_add, Nat.add_comm]
  · have hdiv : u / 2 ^ quantumLog32 u < 2 ^ 24 := by
      rwa [Nat.div_lt_iff_lt_mul hpos, ← pow_add, Nat.add_comm]
    omega
  · obtain ⟨p, hp⟩ := exists_units32_eq_maxF32Units
    obtain ⟨hle, _⟩ := hbeats false p
    rw [hp] at hle
    simp only [abs_eq_max_neg, signedUnits, Bool.false_eq_true, if_false] at hle
    omega

/-! ## Distances between values -/

theorem value32_eq_signedUnits (p : Bits32) : value32 p = signedUnits (sign32 p) (units32 p) * 2 ^ (-1074 : ℤ) := by
  rw [value32_eq_units, signFactor_mul]

theorem value64_eq_signedUnits {b : Bits64} {neg : Bool} {u : Nat} (h : f64 b = .fin neg u) :
    value64 b = signedUnits neg u * 2 ^ (-1074 : ℤ) := by
  rw [value64_of_f64 h, signFactor_mul]

/-- `2^-1074`, the unit, is positive. -/
theorem unit_pos : (0 : ℚ) < 2 ^ (-1074 : ℤ) := zpow_pos two_pos _

theorem abs_signedUnits (neg : Bool) (u : Nat) : |signedUnits neg u| = u := by
  cases neg <;> simp [signedUnits]

/-- The distance of two signed magnitudes, seen from the side of the second. -/
theorem abs_signedUnits_sub (s neg : Bool) (r u : Nat) :
    |signedUnits s r - signedUnits neg u| = |signedUnits (s ^^ neg) r - u| := by
  cases s <;> cases neg <;> simp only [signedUnits, abs_eq_max_neg, Bool.xor_false, Bool.xor_true, Bool.not_false,
    Bool.not_true, if_true, Bool.false_eq_true, if_false] <;> omega

theorem abs_value32_sub_value64 {b : Bits64} {neg : Bool} {u : Nat} (h : f64 b = .fin neg u) (p : Bits32) :
    |value32 p - value64 b| = (|signedUnits (sign32 p ^^ neg) (units32 p) - u| : ℤ) * 2 ^ (-1074 : ℤ) := by
  rw [value32_eq_signedUnits, value64_eq_signedUnits h, ← sub_mul, abs_mul, abs_of_pos unit_pos, ← abs_signedUnits_sub, Int.cast_abs,
    Int.cast_sub]

theorem abs_value32 (p : Bits32) : |value32 p| = units32 p * 2 ^ (-1074 : ℤ) := by
  rw [value32_eq_signedUnits, abs_mul, abs_of_pos unit_pos, ← Int.cast_abs, abs_signedUnits, Int.cast_natCast]

theorem signedUnits_inj {s s' : Bool} {u u' : Nat} (hu : u ≠ 0) (h : signedUnits s u = signedUnits s' u') : s = s' ∧ u = u' := by
  cases s <;> cases s' <;> simp only [signedUnits, if_true, Bool.false_eq_true, if_false] at h <;>
    simp only [true_and, reduceCtorEq, false_and] <;> omega

/-- Two patterns of the same value are equal, unless they are zeros. -/
theorem value32_inj {p p' : Bits32} (h : value32 p = value32 p') (hne : value32 p ≠ 0) : p = p' := by
  rw [value32_eq_signedUnits, value32_eq_signedUnits, mul_left_inj' unit_pos.ne', Int.cast_inj] at h
  have hu : units32 p ≠ 0 := by
    intro hzero
    rw [value32_eq_units, hzero, Nat.cast_zero, mul_zero, zero_mul] at hne
    exact hne rfl
  obtain ⟨hsign, hunits⟩ := signedUnits_inj hu h
  rw [← pack32Units_units32 p, hsign, hunits, pack32Units_units32]

theorem maxF32_eq_units : maxF32 = maxF32Units * 2 ^ (-1074 : ℤ) := by
  have hunit : (2 : ℚ) ^ 1074 * 2 ^ (-1074 : ℤ) = 1 := by
    rw [← zpow_natCast, ← zpow_add₀ two_ne_zero]
    rfl
  have hpow : ((2 : ℕ) ^ (104 + 1074) : ℚ) = 2 ^ 104 * 2 ^ 1074 := pow_add _ _ _
  rw [maxF32, maxF32Units, Nat.cast_mul, Nat.cast_pow, hpow, mul_assoc, mul_assoc, hunit]
  norm_num

/-- A value within MAXF32 passes the check of R176. -/
theorem units_le_maxF32Units {b : Bits64} {neg : Bool} {u : Nat} (h : f64 b = .fin neg u) (hmax : |value64 b| ≤ maxF32) :
    u ≤ maxF32Units := by
  rw [value64_eq_signedUnits h, abs_mul, abs_of_pos unit_pos, ← Int.cast_abs, abs_signedUnits, Int.cast_natCast,
    maxF32_eq_units, mul_le_mul_iff_left₀ unit_pos] at hmax
  exact_mod_cast hmax

/-- What R173 and R174 ask of the pattern stored for `v`: finite, with the sign of `v`, and no binary32 number nearer or as near
and preferred. -/
structure NearestTo (ties : Ties) (b : Bits64) (p : Bits32) : Prop where
  finite : finite32 p
  sign : bitField p.toNat 31 31 = bitField b.toNat 63 63
  nearest : ∀ p' : Bits32, finite32 p' → |value32 p - value64 b| ≤ |value32 p' - value64 b| ∧
    (|value32 p - value64 b| = |value32 p' - value64 b| → value32 p' ≠ value32 p →
      if ties = .away then |value32 p'| < |value32 p| else p.toNat % 2 = 0)

/-- The packer's pattern is the nearest one. -/
theorem nearestTo_f32PackFinite (ties : Ties) {b : Bits64} {neg : Bool} {u : Nat} (hf : f64 b = .fin neg u) (hu : u ≠ 0)
    (hmax : u ≤ maxF32Units) : NearestTo ties b (f32PackFinite ties neg u) := by
  obtain ⟨n, ⟨hfin, hsign, hunits, heven⟩, hbeats⟩ := f32PackFinite_spec ties neg hu hmax
  generalize f32PackFinite ties neg u = p at hfin hsign hunits heven
  have hdist : |value32 p - value64 b| = (|(units32 p : ℤ) - u| : ℤ) * 2 ^ (-1074 : ℤ) := by
    rw [abs_value32_sub_value64 hf, hsign, Bool.xor_self]
    rfl
  refine ⟨hfin, ?_, fun p' hp' => ?_⟩
  · rw [bitField_sign32, bitField_sign64, hsign, ((f64_eq_fin_iff b neg u).1 hf).2.1]
  · obtain ⟨hle, htie⟩ := hbeats (sign32 p' ^^ neg) p'
    rw [← hunits] at hle htie
    rw [hdist, abs_value32_sub_value64 hf]
    refine ⟨(mul_le_mul_iff_left₀ unit_pos).2 (Int.cast_le.2 hle), fun heq hne => ?_⟩
    have heq := Int.cast_injective (mul_right_cancel₀ unit_pos.ne' heq)
    have hne' : signedUnits (sign32 p' ^^ neg) (units32 p') ≠ units32 p := by
      intro h
      have hzero : |signedUnits (sign32 p') (units32 p') - signedUnits neg (units32 p)| = 0 := by
        rw [abs_signedUnits_sub, h, sub_self, abs_zero]
      rw [value32_eq_signedUnits, value32_eq_signedUnits, hsign, sub_eq_zero.1 (abs_eq_zero.1 hzero)] at hne
      exact hne rfl
    have hchoice := htie heq hne'
    rw [abs_signedUnits] at hchoice
    split at hchoice
    case isTrue haway =>
      rw [if_pos haway, abs_value32, abs_value32, mul_lt_mul_iff_left₀ unit_pos]
      exact_mod_cast hchoice
    case isFalse haway =>
      rw [if_neg haway]
      exact heven hchoice

theorem f32Pack_finite (p : Params) (neg : Bool) {u : Nat} (hu : u ≠ 0) (nan : Bits32) :
    f32Pack p (.fin neg u) nan = f32PackFinite p.f32Ties neg u := by
  unfold f32Pack
  exact if_neg hu

/-- A single-precision write of a value to be rounded stores the nearest pattern and draws nothing. -/
theorem exec_writeF32_nearest {i : Instr} {e : Endian} {c : Ctl} {s : State} {o : Nat} {b : Bits64}
    (hexec : ∀ s, exec i s = writeF32 e c s) (hov : c.ov = true) (hvv : c.vv = true) (ho : s.off = .holds o)
    (hb : s.val = .holds b) (hl : o + 4 ≤ s.len) (hwf : s.buf.wf = true) (hfin : finite64 b) (hne : value64 b ≠ 0)
    (hmax : |value64 b| ≤ maxF32) :
    ∃ p, StoresPattern i s o 4 e.isBig p.toNat s.draws ∧ NearestTo s.params.f32Ties b p := by
  obtain ⟨neg, u, hf⟩ := exists_f64_of_finite hfin
  have hu : u ≠ 0 := by
    rintro rfl
    refine hne ?_
    rw [value64_of_f64 hf, Nat.cast_zero, mul_zero, zero_mul]
  have hle := units_le_maxF32Units hf hmax
  have hw := storesPattern_of_exec hwf ((hexec s).trans (writeF32_good hov hvv ho hb hl fun neg' u' h => by
    obtain ⟨rfl, rfl⟩ := F64.fin.inj (hf.symm.trans h)
    exact hle))
  rw [isNaN64_of_not (fun h => hfin h.1), hf, f32Pack_finite _ _ hu] at hw
  exact ⟨_, hw, nearestTo_f32PackFinite _ hf hu hle⟩

/-- Settles O52: the packer's pattern is stored, and it beats every binary32 number. -/
theorem singleWritesStoreTheNearest : Obligations.SingleWritesStoreTheNearest := by
  intro c s o b hov hvv ho hb hl hfin hne hmax hwf q hq
  obtain ⟨e, hexec, hbig⟩ := exists_endian_of_mem_writeF32 hq
  obtain ⟨p, hw, hp⟩ := exec_writeF32_nearest hexec hov hvv ho hb hl hwf hfin hne hmax
  exact ⟨p, hbig ▸ hw, hp.finite, hp.sign, hp.nearest⟩

end Sys2Proof.Machine
end

section
/-! Reads of any width and byte order see the bytes last written (20_memory R44): MixedWidthsSeePlainBytes. -/

namespace Sys2Proof.Machine

/-! ## The numeric commands by their meaning -/

/-- What a write command of a width is: the meaning it calls, its byte order, and the range of an integer type. -/
inductive WritesAs (w : Instr) : Nat → Prop
  | int (ty : IntType) (e : Endian) (hexec : ∀ s, exec w s = writeInt ty e w.ctl s)
      (hrange : intWriteRange w = some (ty.bytes, ty.min, ty.max)) (hbig : bigEndian w = e.isBig) : WritesAs w ty.bytes
  | single (e : Endian) (hexec : ∀ s, exec w s = writeF32 e w.ctl s) (hrange : intWriteRange w = none)
      (hbig : bigEndian w = e.isBig) : WritesAs w 4
  | double (e : Endian) (hexec : ∀ s, exec w s = writeF64 e w.ctl s) (hrange : intWriteRange w = none)
      (hbig : bigEndian w = e.isBig) : WritesAs w 8

theorem writesAs_of_class {w : Instr} {n : Nat} (h : commandClass w = .numericWrite n) : WritesAs w n := by
  cases w <;> cases h
  case writeU8 => exact .int .u8 .little (fun _ => rfl) rfl rfl
  case writeI8 => exact .int .i8 .little (fun _ => rfl) rfl rfl
  case writeU16LE => exact .int .u16 .little (fun _ => rfl) rfl rfl
  case writeU16BE => exact .int .u16 .big (fun _ => rfl) rfl rfl
  case writeI16LE => exact .int .i16 .little (fun _ => rfl) rfl rfl
  case writeI16BE => exact .int .i16 .big (fun _ => rfl) rfl rfl
  case writeU32LE => exact .int .u32 .little (fun _ => rfl) rfl rfl
  case writeU32BE => exact .int .u32 .big (fun _ => rfl) rfl rfl
  case writeI32LE => exact .int .i32 .little (fun _ => rfl) rfl rfl
  case writeI32BE => exact .int .i32 .big (fun _ => rfl) rfl rfl
  case writeF32LE => exact .single .little (fun _ => rfl) rfl rfl
  case writeF32BE => exact .single .big (fun _ => rfl) rfl rfl
  case writeF64LE => exact .double .little (fun _ => rfl) rfl rfl
  case writeF64BE => exact .double .big (fun _ => rfl) rfl rfl

/-- What a read command of a width is: the meaning it calls, its byte order, and what `ReadsPatternAs` asks of its RESULT. -/
inductive ReadsAs (r : Instr) : Nat → Prop
  | int (ty : IntType) (e : Endian) (hexec : ∀ s, exec r s = readInt ty e r.ctl s) (hbig : bigEndian r = e.isBig)
      (hreads : ∀ u x, isBits64 (ty.ofPattern u) x → ReadsPatternAs r u x) : ReadsAs r ty.bytes
  | single (e : Endian) (hexec : ∀ s, exec r s = readF32 e r.ctl s) (hbig : bigEndian r = e.isBig)
      (hreads : ∀ u x, ReadsPatternAs (.readF32LE r.ctl) u x → ReadsPatternAs r u x) : ReadsAs r 4
  | double (e : Endian) (hexec : ∀ s, exec r s = readF64 e r.ctl s) (hbig : bigEndian r = e.isBig)
      (hreads : ∀ u x, ReadsPatternAs (.readF64LE r.ctl) u x → ReadsPatternAs r u x) : ReadsAs r 8

theorem isBits64_of_unsigned {ty : IntType} (hty : ty.signed = false) (u : Nat) (x : Bits64)
    (h : isBits64 (ty.ofPattern u) x) : isBits64 u x := by
  rwa [ofPattern_of_unsigned hty, Int.cast_natCast] at h

theorem isBits64_of_signed {ty : IntType} (hty : ty.signed = true) (u : Nat) (x : Bits64)
    (h : isBits64 (ty.ofPattern u) x) : isBits64 (signedValue ty.bits u) x := by
  rwa [ofPattern_of_signed hty] at h

theorem readsAs_of_class {r : Instr} {n : Nat} (h : commandClass r = .numericRead n) : ReadsAs r n := by
  cases r <;> cases h
  case readU8 => exact .int .u8 .little (fun _ => rfl) rfl (isBits64_of_unsigned rfl)
  case readI8 => exact .int .i8 .little (fun _ => rfl) rfl (isBits64_of_signed rfl)
  case readU16LE => exact .int .u16 .little (fun _ => rfl) rfl (isBits64_of_unsigned rfl)
  case readU16BE => exact .int .u16 .big (fun _ => rfl) rfl (isBits64_of_unsigned rfl)
  case readI16LE => exact .int .i16 .little (fun _ => rfl) rfl (isBits64_of_signed rfl)
  case readI16BE => exact .int .i16 .big (fun _ => rfl) rfl (isBits64_of_signed rfl)
  case readU32LE => exact .int .u32 .little (fun _ => rfl) rfl (isBits64_of_unsigned rfl)
  case readU32BE => exact .int .u32 .big (fun _ => rfl) rfl (isBits64_of_unsigned rfl)
  case readI32LE => exact .int .i32 .little (fun _ => rfl) rfl (isBits64_of_signed rfl)
  case readI32BE => exact .int .i32 .big (fun _ => rfl) rfl (isBits64_of_signed rfl)
  case readF32LE => exact .single .little (fun _ => rfl) rfl fun _ _ h => h
  case readF32BE => exact .single .big (fun _ => rfl) rfl fun _ _ h => h
  case readF64LE => exact .double .little (fun _ => rfl) rfl fun _ _ h => h
  case readF64BE => exact .double .big (fun _ => rfl) rfl fun _ _ h => h

/-! ## What a read makes of the bytes -/

theorem readsPatternAs_f32Unpack (c : Ctl) (u : Nat) {nan : Bits64} (hnan : nanPattern64 nan) :
    ReadsPatternAs (.readF32LE c) u (f32Unpack (BitVec.ofNat 32 u) nan) := by
  unfold ReadsPatternAs
  dsimp only
  generalize BitVec.ofNat 32 u = p
  split_ifs with h hpos hneg
  · rwa [f32Unpack_nan h]
  · rw [hpos]
    rfl
  · rw [hneg]
    rfl
  · refine f32Unpack_exact (by_contra fun hfin => ?_) nan
    exact (eq_inf32_of_not hfin h).elim hpos hneg

theorem readsPatternAs_f64Unpack (c : Ctl) (u : Nat) {nan : Bits64} (hnan : nanPattern64 nan) :
    ReadsPatternAs (.readF64LE c) u (f64Unpack (BitVec.ofNat 64 u) nan) := by
  unfold ReadsPatternAs
  dsimp only
  rw [f64Unpack]
  split_ifs with h hn hn
  · exact hnan
  · exact absurd ((isNaN64_eq_true_iff _).2 h) hn
  · exact absurd ((isNaN64_eq_true_iff _).1 hn) h
  · rfl

/-- A numeric read at a good offset completes with STATUS 0 and makes its RESULT of the bytes there. -/
theorem exec_read_sees {r : Instr} {m : Nat} (h : ReadsAs r m) {s : State} {o : Nat} (hov : r.ctl.ov = true)
    (ho : s.off = .holds o) (hl : o + m ≤ s.len) :
    ∃ u, exec r s = .next u ∧ u.status = 0 ∧
      ReadsPatternAs r (patternOf (bigEndian r) m fun j => s.byteAt (o + j)) u.result := by
  cases h with
  | int ty e hexec hbig hreads =>
    refine ⟨_, (hexec s).trans (readInt_good hov ho hl), rfl, hreads _ _ ?_⟩
    rw [hbig]
    dsimp only
    exact isBits64_ofPattern ty e.isBig s o
  | single e hexec hbig hreads =>
    refine ⟨_, (hexec s).trans (readF32_good hov ho hl), rfl, hreads _ _ ?_⟩
    rw [hbig]
    exact readsPatternAs_f32Unpack _ _ (nanPattern64_nan64Of _)
  | double e hexec hbig hreads =>
    refine ⟨_, (hexec s).trans (readF64_good hov ho hl), rfl, hreads _ _ ?_⟩
    rw [hbig]
    exact readsPatternAs_f64Unpack _ _ (nanPattern64_nan64Of _)

/-! ## What a completed write leaves -/

theorem ErrorKind.code_ne_zero (e : ErrorKind) : e.code ≠ 0 := by cases e <;> decide

/-- A write that ends with STATUS 0 had a good offset, and wrote there only. -/
theorem WriteOutcome.of_status_zero {α : Type} {n : Nat} {judge : Bits64 → Except ErrorKind α} {c : Ctl} {s t : State} {o : Nat}
    (h : WriteOutcome n judge c s t) (ht : t.status = 0) (ho : s.off = .holds o) :
    c.ov = true ∧ o + n ≤ s.len ∧ SameOutside s.buf t.buf o n := by
  obtain ⟨_, _, _, _, hout⟩ := h.frame
  obtain ⟨o', bs, d, hov, ho', hl, _, rfl⟩ | ⟨e, _, _, rfl⟩ := h
  · obtain rfl : o = o' := OperandReg.holds.inj (ho.symm.trans ho')
    exact ⟨hov, hl, hout o ho⟩
  · exact absurd ht e.code_ne_zero

theorem exec_write_of_status_zero {w : Instr} {n : Nat} {s t : State} {o : Nat} (hw : WritesAs w n) (h : exec w s = .next t)
    (ht : t.status = 0) (ho : s.off = .holds o) : w.ctl.ov = true ∧ o + n ≤ s.len ∧ SameOutside s.buf t.buf o n := by
  cases hw with
  | int ty e hexec => exact (writeInt_next ((hexec s).symm.trans h)).of_status_zero ht ho
  | single e hexec => exact (writeF32_next ((hexec s).symm.trans h)).of_status_zero ht ho
  | double e hexec => exact (writeF64_next ((hexec s).symm.trans h)).of_status_zero ht ho

/-- A finite value that binary32 holds exactly is stored as its own pattern. -/
theorem eq_of_nearestTo {ties : Ties} {b : Bits64} {p p' : Bits32} (h : NearestTo ties b p) (hfin : finite32 p')
    (hv : value32 p' = value64 b) (hne : value64 b ≠ 0) : p = p' := by
  obtain ⟨hle, _⟩ := h.nearest p' hfin
  rw [hv, sub_self, abs_zero] at hle
  have hp : value32 p = value64 b := sub_eq_zero.1 (abs_nonpos_iff.1 hle)
  exact value32_inj (hp.trans hv.symm) (hp ▸ hne)

theorem abs_value32_le_maxF32 {p : Bits32} (h : finite32 p) : |value32 p| ≤ maxF32 := by
  rw [abs_value32, maxF32_eq_units, mul_le_mul_iff_left₀ unit_pos, Nat.cast_le]
  exact units32_le_maxF32Units h

/-- The bytes of a stored pattern, in the state the command leaves. -/
theorem byteAt_of_storesPattern {i : Instr} {s t : State} {o n p d : Nat} {big : Bool} (h : StoresPattern i s o n big p d)
    (ht : exec i s = .next t) : ∀ j < n, t.byteAt (o + j) = p / 256 ^ bytePlace big n j % 256 := by
  obtain ⟨m, hm, _, hbytes⟩ := h
  injection hm.symm.trans ht with ht
  subst ht
  exact hbytes

theorem exec_write_stored {w : Instr} {n : Nat} {s t : State} {o : Nat} (hw : WritesAs w n) (hwf : s.buf.wf = true)
    (h : exec w s = .next t) (ho : s.off = .holds o) (hov : w.ctl.ov = true) (hl : o + n ≤ s.len) :
    BytesStoredBy w s n fun j => t.byteAt (o + j) := by
  intro hvv b hb
  cases hw with
  | int ty e hexec hrange hbig =>
    rw [hrange, hbig]
    intro x hfin hv hlo hhi
    obtain ⟨m, hm, _, hbytes⟩ := writesInteger_of_writeInt hexec (fun _ => rfl) s o b x hwf hov hvv ho hb hl hfin hv hlo hhi
    injection hm.symm.trans h with ht
    subst ht
    exact hbytes
  | single e hexec hrange hbig =>
    rw [hrange, hbig]
    dsimp only
    rw [if_neg (by decide)]
    intro p hfin hp hv hne
    have hmax : |value64 b| ≤ maxF32 := hv ▸ abs_value32_le_maxF32 hp
    obtain ⟨p', hstored, hnear⟩ := exec_writeF32_nearest hexec hov hvv ho hb hl hwf hfin hne hmax
    rw [eq_of_nearestTo hnear hp hv hne] at hstored
    exact byteAt_of_storesPattern hstored h
  | double e hexec hrange hbig =>
    rw [hrange, hbig]
    dsimp only
    rw [if_pos rfl]
    intro hnan hz
    have hstored := storesPattern_of_exec hwf ((hexec s).trans (writeF64_good hov hvv ho hb hl))
    rw [f64Pack_other hnan hz] at hstored
    exact byteAt_of_storesPattern hstored h

/-! ## A write, then a read -/

/-- A read after a write: bytes inside the written range are the write's, the others are as before it. -/
theorem exec_read_after_write {w r : Instr} {n m : Nat} {s t : State} {o o' : Nat} (hw : WritesAs w n) (hr : ReadsAs r m)
    (ho : s.off = .holds o) (h : exec w s = .next t) (ht : t.status = 0) (hov : r.ctl.ov = true) (hl : o' + m ≤ s.len) :
    ∃ u, exec r { t with off := .holds o' } = .next u ∧ u.status = 0 ∧
      ReadsPatternAs r
        (patternOf (bigEndian r) m fun j =>
          if o ≤ o' + j ∧ o' + j < o + n then t.byteAt (o' + j) else s.byteAt (o' + j)) u.result := by
  obtain ⟨_, _, hout⟩ := exec_write_of_status_zero hw h ht ho
  obtain ⟨_, hlen, _⟩ := (exec_changesOnlyOutputs h).host
  have hbytes : (fun j => if o ≤ o' + j ∧ o' + j < o + n then t.byteAt (o' + j) else s.byteAt (o' + j)) =
      fun j => t.byteAt (o' + j) := by
    funext j
    split
    case isTrue => rfl
    case isFalse hj => exact congrArg BitVec.toNat (hout (o' + j) (by omega)).symm
  rw [hbytes]
  exact exec_read_sees hr (s := { t with off := .holds o' }) hov rfl (hlen ▸ hl)

/-- R44's example: the two middle bytes of 0x11223344, most significant first in BUF, read least significant first. -/
theorem exec_readU16LE_after_writeU32BE {c d : Ctl} {s : State} {o : Nat} {b : Bits64} (hcov : c.ov = true)
    (hcvv : c.vv = true) (hdov : d.ov = true) (ho : s.off = .holds o) (hb : s.val = .holds b) (hx : isBits64 0x11223344 b)
    (hl : o + 4 ≤ s.len) (hwf : s.buf.wf = true) :
    ∃ t u, exec (.writeU32BE c) s = .next t ∧ exec (.readU16LE d) { t with off := .holds (o + 1) } = .next u ∧
      u.status = 0 ∧ isBits64 0x3322 u.result := by
  obtain ⟨_, _, _, _, hwrite⟩ := unsignedWritesStoreTheValue c
  obtain ⟨_, hread, _⟩ := unsignedReadsGiveTheBytes d
  obtain ⟨hfin, hv, _⟩ := hx
  obtain ⟨m, hm, _, hbytes⟩ := hwrite s o b 0x11223344 hwf hcov hcvv ho hb hl hfin (by rw [hv]; norm_num) (by decide) (by decide)
  have h1 : (m.read (o + 1)).toNat = 0x22 := by exact_mod_cast hbytes 1 (by decide)
  have h2 : (m.read (o + 2)).toNat = 0x33 := by exact_mod_cast hbytes 2 (by decide)
  obtain ⟨x, hx, hbits⟩ :=
    hread { s with buf := m, status := 0, off := .holds (o + 1) } (o + 1) hdov rfl (by dsimp only; omega)
  refine ⟨_, _, hm, hx, rfl, ?_⟩
  simpa [State.byteAt, h1, h2] using hbits

/-- Settles O47: the bytes by what the write stores, RESULT by what the read makes of the bytes left. -/
theorem mixedWidthsSeePlainBytes : Obligations.MixedWidthsSeePlainBytes := by
  refine ⟨fun w r n m s t o o' hcw hcr hwf ho h ht hov hl => ?_,
    fun c d s o b hcov hcvv hdov ho hb hx hl hwf => exec_readU16LE_after_writeU32BE hcov hcvv hdov ho hb hx hl hwf⟩
  have hw := writesAs_of_class hcw
  obtain ⟨hwov, hwl, _⟩ := exec_write_of_status_zero hw h ht ho
  exact ⟨exec_write_stored hw hwf h ho hwov hwl, exec_read_after_write hw (readsAs_of_class hcr) ho h ht hov hl⟩

end Sys2Proof.Machine
end

section
/-! Command words (30_encoding R60 to R66, 60_exceptions R216): DecodeAndEncodeAreInverse, DecoderAcceptsExactlyTheLegalWords,
WordsOfTheSpecDecode, IllegalWordWritesOnlyStatus. -/

namespace Sys2Proof

/-! ## A word by its fields (R60) -/

theorem getLsbD_eq_of_ctlOf_eq {w w' : CommandWord} (h : ctlOf w = ctlOf w') {i : Nat} (hlo : 8 ≤ i) (hhi : i < 12) :
    w.getLsbD i = w'.getLsbD i := by
  obtain ⟨ha, hov, hvv, htv⟩ := Ctl.mk.inj h
  interval_cases i <;> assumption

/-- OPC, the four flag bits and RSV are the whole of a word. -/
theorem eq_of_fields {w w' : CommandWord} (hopc : w.extractLsb' 0 8 = w'.extractLsb' 0 8) (hctl : ctlOf w = ctlOf w')
    (hrsv : w.extractLsb' 12 20 = w'.extractLsb' 12 20) : w = w' := by
  refine BitVec.eq_of_getLsbD_eq fun i hi => ?_
  by_cases hlow : i < 8
  · simpa [hlow] using congrArg (BitVec.getLsbD · i) hopc
  by_cases hflag : i < 12
  · exact getLsbD_eq_of_ctlOf_eq hctl (by omega) hflag
  · have hr := congrArg (BitVec.getLsbD · (i - 12)) hrsv
    simpa only [BitVec.getLsbD_extractLsb', show i - 12 < 20 by omega, show 12 + (i - 12) = i by omega, decide_true,
      Bool.true_and] using hr

/-- The word of a command is the one that holds its opcode, its flag bits and no reserved bit. -/
theorem encode_eq_iff (i : Instr) (w : CommandWord) :
    encode i = w ↔ w.extractLsb' 12 20 = 0 ∧ w.extractLsb' 0 8 = i.opcode ∧ ctlOf w = i.ctl := by
  obtain ⟨hopc, hctl, hrsv⟩ := encode_fields i
  refine ⟨?_, fun ⟨hr, ho, hc⟩ => ?_⟩
  · rintro rfl
    exact ⟨hrsv, hopc, hctl⟩
  · exact eq_of_fields (hopc.trans ho.symm) (hctl.trans hc.symm) (hrsv.trans hr.symm)

/-! ## The opcode tables (R63, R64) -/

theorem lowCommand_eq_some {n : Nat} {c : Ctl} {i : Instr} (h : lowCommand n c = some i) :
    i.ctl = c ∧ i.opcode.toNat = n := by
  unfold lowCommand at h
  split at h <;> cases h <;> exact ⟨rfl, rfl⟩

theorem not_mem_lowOpcodes_of_lowCommand {n : Nat} {c : Ctl} (h : lowCommand n c = none) : n ∉ lowOpcodes := by
  intro hn
  simp only [lowOpcodes, List.mem_cons, List.not_mem_nil, or_false] at hn
  obtain rfl | rfl | rfl | rfl | rfl | rfl | rfl | rfl := hn <;> cases h

/-- The opcode of a numeric command, as R64 lays it out: `1 W T E 00`. -/
def numericOpcode (w : Bool) (t : BitVec 3) (e : Bool) : BitVec 8 :=
  1#1 ++ (BitVec.ofBool w ++ (t ++ (BitVec.ofBool e ++ 0#2)))

/-- An opcode whose top bit is 1 and whose two low bits are 0 is made of its fields W, T and E. -/
theorem eq_numericOpcode {opc : BitVec 8} (htop : opc.getLsbD 7 = true) (hlow : opc.extractLsb' 0 2 = 0) :
    opc = numericOpcode (opc.getLsbD 6) (opc.extractLsb' 3 3) (opc.getLsbD 2) := by
  have h0 : opc.getLsbD 0 = false := by simpa using congrArg (BitVec.getLsbD · 0) hlow
  have h1 : opc.getLsbD 1 = false := by simpa using congrArg (BitVec.getLsbD · 1) hlow
  refine BitVec.eq_of_getLsbD_eq fun i hi => ?_
  simp only [numericOpcode, BitVec.getLsbD_append, BitVec.getLsbD_extractLsb']
  interval_cases i <;> simp_all

theorem ctl_numericRead (t : Nat) (e : Bool) (c : Ctl) : (numericRead t e c).ctl = c := by
  unfold numericRead
  split <;> rfl

theorem ctl_numericWrite (t : Nat) (e : Bool) (c : Ctl) : (numericWrite t e c).ctl = c := by
  unfold numericWrite
  split <;> rfl

theorem bitVec3_cases (t : BitVec 3) : t = 0 ∨ t = 1 ∨ t = 2 ∨ t = 3 ∨ t = 4 ∨ t = 5 ∨ t = 6 ∨ t = 7 := by
  revert t
  decide

/-- The numeric commands have the opcodes of their fields, but for a 1-byte type with `E = 1`, which is no command. -/
theorem opcode_numeric {t : BitVec 3} {e : Bool} (h : ¬ ((t.toNat = 0 ∨ t.toNat = 1) ∧ e = true)) (c : Ctl) :
    (numericRead t.toNat e c).opcode = numericOpcode false t e ∧
      (numericWrite t.toNat e c).opcode = numericOpcode true t e := by
  obtain rfl | rfl | ht := bitVec3_cases t
  · obtain rfl : e = false := by simpa using h
    exact ⟨rfl, rfl⟩
  · obtain rfl : e = false := by simpa using h
    exact ⟨rfl, rfl⟩
  · obtain rfl | rfl | rfl | rfl | rfl | rfl := ht <;> cases e <;> exact ⟨rfl, rfl⟩

theorem numericOpcode_oneByteBigEndian (w : Bool) {t : BitVec 3} (h : t.toNat = 0 ∨ t.toNat = 1) :
    (numericOpcode w t true).toNat ∈ oneByteBigEndianOpcodes := by
  obtain rfl | rfl : t = 0 ∨ t = 1 := h.imp BitVec.eq_of_toNat_eq BitVec.eq_of_toNat_eq
  all_goals cases w <;> decide

/-! ## The decoder, by R66's list -/

theorem toNat_opcodeField (w : CommandWord) : (w.extractLsb' 0 8).toNat = w.toNat % 2 ^ 8 := by
  rw [BitVec.extractLsb'_toNat, Nat.shiftRight_zero]

theorem reservedField_eq_zero_iff (w : CommandWord) : w.extractLsb' 12 20 = 0 ↔ w.toNat < 2 ^ 12 := by
  rw [← BitVec.toNat_inj, BitVec.extractLsb'_toNat, Nat.shiftRight_eq_div_pow]
  change _ = 0 ↔ _
  omega

theorem getLsbD_seven_eq_false_iff (opc : BitVec 8) : opc.getLsbD 7 = false ↔ opc.toNat < 0x80 := by
  rw [BitVec.getLsbD, Nat.testBit_eq_decide_div_mod_eq, decide_eq_false_iff_not]
  omega

theorem lowBits_eq_zero_iff (opc : BitVec 8) : opc.extractLsb' 0 2 = 0 ↔ opc.toNat % 4 = 0 := by
  rw [← BitVec.toNat_inj, BitVec.extractLsb'_toNat, Nat.shiftRight_zero]
  rfl

/-- What the decoder answers for a word of opcode `n`: for each reason of ILLEGAL the line of R66 that names the word, or a
command with the word's opcode and flag bits. -/
inductive DecodesAs (w : CommandWord) (n : Nat) : Except Illegal Instr → Prop
  | reservedBits (hrsv : 2 ^ 12 ≤ w.toNat) : DecodesAs w n (.error .reservedBits)
  | unlistedOpcode (hn : n < 0x80) (hlist : n ∉ lowOpcodes) : DecodesAs w n (.error .unlistedOpcode)
  | numericLowBits (hn : 0x80 ≤ n) (hlow : n % 4 ≠ 0) : DecodesAs w n (.error .numericLowBits)
  | oneByteBigEndian (hn : 0x80 ≤ n) (hlist : n ∈ oneByteBigEndianOpcodes) : DecodesAs w n (.error .oneByteBigEndian)
  | command (i : Instr) (hrsv : w.toNat < 2 ^ 12) (hopc : i.opcode.toNat = n) (hctl : i.ctl = ctlOf w) :
      DecodesAs w n (.ok i)

/-- Everything the decoder can answer, along the steps of R65. -/
theorem decode_decodesAs (w : CommandWord) : DecodesAs w (w.toNat % 2 ^ 8) (decode w) := by
  rw [← toNat_opcodeField]
  unfold decode
  dsimp only
  generalize w.extractLsb' 0 8 = opc
  by_cases hrsv : w.extractLsb' 12 20 ≠ 0
  · rw [if_pos hrsv]
    exact .reservedBits (not_lt.1 (mt (reservedField_eq_zero_iff w).2 hrsv))
  rw [if_neg hrsv]
  replace hrsv : w.toNat < 2 ^ 12 := (reservedField_eq_zero_iff w).1 (not_not.1 hrsv)
  split
  case h_1 i hi =>
    obtain ⟨hctl, hopc⟩ := lowCommand_eq_some hi
    exact .command i hrsv hopc hctl
  case h_2 hnone =>
    split_ifs with htop hlow hone hw
    · exact .unlistedOpcode ((getLsbD_seven_eq_false_iff opc).1 htop) (not_mem_lowOpcodes_of_lowCommand hnone)
    · exact .numericLowBits (not_lt.1 (mt (getLsbD_seven_eq_false_iff opc).2 htop)) (mt (lowBits_eq_zero_iff opc).2 hlow)
    all_goals
      have hopc := eq_numericOpcode (Bool.not_eq_false _ ▸ htop) (not_not.1 hlow)
    · rw [hone.2] at hopc
      exact .oneByteBigEndian (not_lt.1 (mt (getLsbD_seven_eq_false_iff opc).2 htop))
        (hopc ▸ numericOpcode_oneByteBigEndian _ hone.1)
    · rw [hw] at hopc
      exact .command _ hrsv (congrArg BitVec.toNat ((opcode_numeric hone _).2.trans hopc.symm)) (ctl_numericWrite _ _ _)
    · rw [Bool.not_eq_true] at hw
      rw [hw] at hopc
      exact .command _ hrsv (congrArg BitVec.toNat ((opcode_numeric hone _).1.trans hopc.symm)) (ctl_numericRead _ _ _)

theorem encode_of_decode {w : CommandWord} {i : Instr} (h : decode w = .ok i) : encode i = w := by
  have hd := decode_decodesAs w
  rw [h] at hd
  cases hd with
  | command _ hrsv hopc hctl =>
    exact (encode_eq_iff i w).2 ⟨(reservedField_eq_zero_iff w).2 hrsv,
      BitVec.eq_of_toNat_eq ((toNat_opcodeField w).trans hopc.symm), hctl.symm⟩

/-- The steps of R65 on the fields of a command's word end in that command. -/
theorem decode_encode (i : Instr) : decode (encode i) = .ok i := by
  obtain ⟨hopc, hctl, hrsv⟩ := encode_fields i
  unfold decode
  rw [hopc, hctl, hrsv]
  cases i <;> simp [lowCommand, Instr.opcode, Instr.ctl, numericRead, numericWrite]

/-- Settles O1: the decoder answers only commands that hold the word's fields, and finds every command from its own fields. -/
theorem decodeAndEncodeAreInverse : Obligations.DecodeAndEncodeAreInverse := by
  refine fun w i => ⟨encode_of_decode, ?_⟩
  rintro rfl
  exact decode_encode i

/-- Settles O3: each word is evaluated. -/
theorem wordsOfTheSpecDecode : Obligations.WordsOfTheSpecDecode := by
  unfold Obligations.WordsOfTheSpecDecode
  decide

/-! ## Legal words (R66) -/

theorem legalOpcode_opcode (i : Instr) : legalOpcode i.opcode.toNat = true := by
  cases i <;> simp [legalOpcode, lowOpcodes, oneByteBigEndianOpcodes, Instr.opcode]

theorem legalWord_encode (i : Instr) : legalWord (encode i) = true :=
  (Laws.Encoding.of_legalOpcode i.opcode rfl (legalOpcode_opcode i)).1

theorem lt_of_mem_lowOpcodes {n : Nat} (h : n ∈ lowOpcodes) : n < 0x80 := by
  revert n
  decide

/-- R66's list as a proposition: an opcode of R63, or a numeric one with no low bit set that is no 1-byte big-endian one. -/
theorem legalOpcode_iff (n : Nat) :
    legalOpcode n = true ↔ n ∈ lowOpcodes ∨ (0x80 ≤ n ∧ n % 4 = 0 ∧ n ∉ oneByteBigEndianOpcodes) := by
  unfold legalOpcode
  by_cases hn : n < 0x80
  · simp [hn, not_le.2 hn]
  · simp [hn, not_lt.1 hn, mt lt_of_mem_lowOpcodes hn]

theorem legalWord_iff (w : CommandWord) :
    legalWord w = true ↔ w.toNat < 2 ^ 12 ∧ legalOpcode (w.toNat % 2 ^ 8) = true := by
  rw [legalWord, Bool.and_eq_true, decide_eq_true_iff]

theorem legalWord_of_decode_ok {w : CommandWord} {i : Instr} (h : decode w = .ok i) : legalWord w = true :=
  encode_of_decode h ▸ legalWord_encode i

/-- Each reason the decoder gives is a line of R66's list. -/
theorem legalWord_of_decode_error {w : CommandWord} {e : Illegal} (h : decode w = .error e) : legalWord w = false := by
  have hd := decode_decodesAs w
  rw [h] at hd
  clear h
  rw [← Bool.not_eq_true, legalWord_iff, legalOpcode_iff]
  rintro ⟨hrsv, hlow | ⟨hn, hbits, hlist⟩⟩
  · have hlt := lt_of_mem_lowOpcodes hlow
    cases hd with
    | reservedBits h => exact absurd hrsv (not_lt.2 h)
    | unlistedOpcode _ h => exact h hlow
    | numericLowBits h _ => exact absurd hlt (not_lt.2 h)
    | oneByteBigEndian h _ => exact absurd hlt (not_lt.2 h)
  · cases hd with
    | reservedBits h => exact absurd hrsv (not_lt.2 h)
    | unlistedOpcode h _ => exact absurd h (not_lt.2 hn)
    | numericLowBits _ h => exact h hbits
    | oneByteBigEndian _ h => exact hlist h

theorem exists_decode_ok_iff (w : CommandWord) : (∃ i, decode w = .ok i) ↔ legalWord w = true := by
  cases h : decode w with
  | ok i => simp [legalWord_of_decode_ok h]
  | error e => simp [legalWord_of_decode_error h]

theorem exists_decode_error_iff (w : CommandWord) : (∃ e, decode w = .error e) ↔ legalWord w = false := by
  cases h : decode w with
  | ok i => simp [legalWord_of_decode_ok h]
  | error e => simp [legalWord_of_decode_error h]

theorem isSome_decode? (w : CommandWord) : (decode? w).isSome = legalWord w := by
  unfold decode?
  cases h : decode w with
  | ok i => exact (legalWord_of_decode_ok h).symm
  | error e => exact (legalWord_of_decode_error h).symm

/-- A word with no bit set beside its opcode is legal when its opcode is. -/
theorem legalWord_ofNat {n : Nat} (hn : n < 256) : legalWord (BitVec.ofNat 32 n) = legalOpcode n := by
  have hlt : n < 2 ^ 12 := by omega
  rw [legalWord, BitVec.toNat_ofNat, Nat.mod_eq_of_lt (by omega), Nat.mod_eq_of_lt (b := 2 ^ 8) hn,
    decide_eq_true hlt, Bool.true_and]

theorem length_filter_legalOpcode : ((List.range 256).filter legalOpcode).length = 36 := by decide

theorem length_filter_not_legalOpcode : ((List.range 256).filter (! legalOpcode ·)).length = 220 := by
  have h := List.length_eq_length_filter_add (l := List.range 256) legalOpcode
  rw [List.length_range, length_filter_legalOpcode] at h
  omega

/-- Settles O2: a word decodes when `legalWord` holds, so the opcodes that decode are the legal ones, which are counted. -/
theorem decoderAcceptsExactlyTheLegalWords : Obligations.DecoderAcceptsExactlyTheLegalWords := by
  have hsome : ∀ n ∈ List.range 256, (decode? (BitVec.ofNat 32 n)).isSome = legalOpcode n := fun n hn => by
    rw [isSome_decode?, legalWord_ofNat (List.mem_range.1 hn)]
  refine ⟨fun w => ?_, ?_, ?_⟩
  · have hmod : w.toNat % 2 ^ 8 % 4 = w.toNat % 4 := Nat.mod_mod_of_dvd _ (by decide)
    rw [exists_decode_ok_iff, legalWord_iff, legalOpcode_iff, hmod]
    rfl
  · rw [List.filter_congr hsome]
    exact length_filter_legalOpcode
  · have hnone : ∀ n ∈ List.range 256, (decode? (BitVec.ofNat 32 n)).isNone = ! legalOpcode n := fun n hn => by
      rw [← hsome n hn, Option.not_isSome]
    rw [List.filter_congr hnone]
    exact length_filter_not_legalOpcode

end Sys2Proof

namespace Sys2Proof.Machine

/-- Settles O5: an illegal word does not decode, and issuing it raises IllegalCommand on the latched state. -/
theorem illegalWordWritesOnlyStatus : Obligations.IllegalWordWritesOnlyStatus := by
  intro s w rest hu hs hw
  obtain ⟨e, he⟩ := (exists_decode_error_iff w).2 hw
  rw [step_cmd hu hs, issue_of_decode_error he]
  rfl

end Sys2Proof.Machine
end

section
/-! When a command ends in `undefined`, and which flag bits it reads (30_encoding R61, 60_exceptions R214):
UndefinedExactlyInItsCases, UnusedFlagBitsAreIgnored. -/

namespace Sys2Proof.Machine

/-! ## Ends in `undefined`, by the checks -/

/-- The answer is a fault when `P` holds and a next state when it does not. -/
inductive FaultsExactlyWhen (P : Prop) : Result → Prop
  | fault (h : P) (f : Fault) : FaultsExactlyWhen P (.fault f)
  | next (h : ¬ P) (t : State) : FaultsExactlyWhen P (.next t)

theorem FaultsExactlyWhen.ne_refused {P : Prop} {r : Result} (h : FaultsExactlyWhen P r) (x : Refusal) : r ≠ .refused x := by
  rintro rfl
  cases h

theorem FaultsExactlyWhen.exists_fault_iff {P : Prop} {r : Result} (h : FaultsExactlyWhen P r) : (∃ f, r = .fault f) ↔ P := by
  cases h with
  | fault hP f => exact ⟨fun _ => hP, fun _ => ⟨f, rfl⟩⟩
  | next hP t => exact ⟨fun ⟨_, hf⟩ => (by cases hf), fun h => absurd h hP⟩

/-- The command reads OFF, which the host has not written (R214 case 2). -/
def OffsetUnwritten (c : Ctl) (s : State) : Prop := c.ov = true ∧ s.off = .noValue

/-- R214's cases for a write of `n` bytes: an operand register it reads was never written, or A = 0 and the offset is absent
or out of bounds. -/
def WriteUndefined (n : Nat) (c : Ctl) (s : State) : Prop :=
  OffsetUnwritten c s ∨ (c.vv = true ∧ s.val = .noValue) ∨
    (c.a = false ∧ (c.ov = false ∨ ∃ o, s.off = .holds o ∧ s.len < o + n))

theorem readCheck_ok_written {n o : Nat} {c : Ctl} {s : State} (h : readCheck n c s = .ok o) : ¬ OffsetUnwritten c s := by
  rintro ⟨hov, hoff⟩
  simp [readCheck, offsetOperand, hov, hoff] at h

theorem readCheck_error_faultsExactly {n : Nat} {c : Ctl} {s : State} {r : Result} (h : readCheck n c s = .error r) :
    FaultsExactlyWhen (OffsetUnwritten c s) r := by
  obtain ⟨o, _, _, _, h'⟩ | ⟨hov, hoff, h'⟩ | ⟨hov, h'⟩ | ⟨o, _, hoff, _, h'⟩ := readCheck_cases n c s
  all_goals
    rw [h'] at h
    cases h
  · exact .fault ⟨hov, hoff⟩ _
  · exact .next (fun ⟨hov', _⟩ => Bool.false_ne_true (hov.symm.trans hov')) _
  · exact .next (fun ⟨_, hoff'⟩ => nomatch hoff.symm.trans hoff') _

theorem writeCheck_undefined {α : Type} {n : Nat} (judge : Bits64 → Except ErrorKind α) {c : Ctl} {s : State}
    (h : WriteUndefined n c s) : ∃ why, writeCheck n judge c s = .error (s.undefinedOutcome why) := by
  by_cases hu : OffsetUnwritten c s ∨ (c.vv = true ∧ s.val = .noValue)
  · obtain ⟨r, hr⟩ := writeCheck_unwritten (n := n) (judge := judge) hu
    exact ⟨_, hr⟩
  obtain ⟨hoff, hval⟩ := not_or.1 hu
  obtain hoff' | hval' | ⟨ha, hbad⟩ := h
  · exact absurd hoff' hoff
  · exact absurd hval' hval
  have hw := writeCheck_bad (judge := judge) (not_and.1 hoff) (not_and.1 hval) (hbad.imp id .inr)
  obtain hov | ⟨o, ho, hlen⟩ := hbad
  · exact ⟨.offsetAbsent, by simpa [hov, ha] using hw⟩
  · cases hov : c.ov with
    | false => exact ⟨.offsetAbsent, by simpa [hov, ha] using hw⟩
    | true => exact ⟨.offsetOutOfBounds, by simpa [hov, ha, ho, not_le.2 hlen] using hw⟩

theorem writeCheck_ok_defined {α : Type} {n : Nat} {judge : Bits64 → Except ErrorKind α} {c : Ctl} {s : State} {x : Nat × α}
    (h : writeCheck n judge c s = .ok x) : ¬ WriteUndefined n c s := fun hu => by
  obtain ⟨why, hw⟩ := writeCheck_undefined judge hu
  cases hw.symm.trans h

theorem writeCheck_error_faultsExactly {α : Type} {n : Nat} {judge : Bits64 → Except ErrorKind α} {c : Ctl} {s : State}
    {r : Result} (h : writeCheck n judge c s = .error r) : FaultsExactlyWhen (WriteUndefined n c s) r := by
  by_cases hu : WriteUndefined n c s
  · obtain ⟨why, hw⟩ := writeCheck_undefined judge hu
    obtain rfl := Except.error.inj (hw.symm.trans h)
    exact .fault hu _
  obtain ⟨o, b, x, _, _, _, _, _, _, h'⟩ | ⟨why, hwhy, _⟩ | ⟨e, _, _, h'⟩ | ⟨o, _, _, _, _, h'⟩ :=
    writeCheck_cases n judge c s
  · cases h'.symm.trans h
  · exact absurd hwhy hu
  all_goals
    obtain rfl := Except.error.inj (h'.symm.trans h)
    exact .next hu _

/-! ## Ends in `undefined`, by the shape of the command -/

theorem readInt_faultsExactly (ty : IntType) (e : Endian) (c : Ctl) (s : State) :
    FaultsExactlyWhen (OffsetUnwritten c s) (readInt ty e c s) := by
  unfold readInt
  split
  case h_1 r h => exact readCheck_error_faultsExactly h
  case h_2 o h => exact .next (readCheck_ok_written h) _

theorem readF32_faultsExactly (e : Endian) (c : Ctl) (s : State) : FaultsExactlyWhen (OffsetUnwritten c s) (readF32 e c s) := by
  unfold readF32
  split
  case h_1 r h => exact readCheck_error_faultsExactly h
  case h_2 o h => exact .next (readCheck_ok_written h) _

theorem readF64_faultsExactly (e : Endian) (c : Ctl) (s : State) : FaultsExactlyWhen (OffsetUnwritten c s) (readF64 e c s) := by
  unfold readF64
  split
  case h_1 r h => exact readCheck_error_faultsExactly h
  case h_2 o h => exact .next (readCheck_ok_written h) _

theorem writeInt_faultsExactly (ty : IntType) (e : Endian) (c : Ctl) (s : State) :
    FaultsExactlyWhen (WriteUndefined ty.bytes c s) (writeInt ty e c s) := by
  unfold writeInt writeCheckInt
  split
  case h_1 r h => exact writeCheck_error_faultsExactly h
  case h_2 o x h => exact .next (writeCheck_ok_defined h) _

theorem writeF32_faultsExactly (e : Endian) (c : Ctl) (s : State) :
    FaultsExactlyWhen (WriteUndefined 4 c s) (writeF32 e c s) := by
  unfold writeF32 writeCheckFloat
  split
  case h_1 r h => exact writeCheck_error_faultsExactly h
  case h_2 o x h => exact .next (writeCheck_ok_defined h) _

theorem writeF64_faultsExactly (e : Endian) (c : Ctl) (s : State) :
    FaultsExactlyWhen (WriteUndefined 8 c s) (writeF64 e c s) := by
  unfold writeF64 writeCheckFloat
  split
  case h_1 r h => exact writeCheck_error_faultsExactly h
  case h_2 o x h => exact .next (writeCheck_ok_defined h) _

theorem textToBytes_faultsExactly (codec : List CodePoint → Except ErrorKind (List Byte)) (s : State) :
    FaultsExactlyWhen (s.tin = .noValue) (textToBytes codec s) := by
  unfold textToBytes textOperand
  cases ht : s.tin with
  | noValue => exact .fault rfl _
  | holds t =>
    rw [readOperand_holds]
    dsimp only
    split <;> exact .next nofun _

theorem bytesToText_faultsExactly (codec : List Byte → List CodePoint) (s : State) :
    FaultsExactlyWhen (s.bin = .noValue) (bytesToText codec s) := by
  unfold bytesToText bytesOperand
  cases hb : s.bin with
  | noValue => exact .fault rfl _
  | holds bs => exact .next nofun _

theorem execU8dec_faultsExactly (c : Ctl) (s : State) : FaultsExactlyWhen (s.bin = .noValue) (execU8dec c s) := by
  unfold execU8dec bytesOperand
  cases hb : s.bin with
  | noValue => exact .fault rfl _
  | holds bs =>
    rw [readOperand_holds]
    dsimp only
    split <;> exact .next nofun _

theorem execEncsel_faultsExactly (c : Ctl) (s : State) :
    FaultsExactlyWhen (c.tv = true ∧ s.tin = .noValue) (execEncsel c s) := by
  unfold execEncsel nameOperand
  obtain ⟨htv, h⟩ | ⟨htv, ht, h⟩ | ⟨t, htv, ht, h⟩ := readIf_cases c.tv .tin s.tin s <;> rw [h]
  · exact .next (by simp [htv]) _
  · exact .fault ⟨htv, ht⟩ _
  · dsimp only
    split <;> exact .next (by simp [ht]) _

/-! ## R214's cases, by the class of the command -/

theorem exists_operandName {p : OperandName → Prop} : (∃ r, p r) ↔ p .off ∨ p .val ∨ p .tin ∨ p .bin := by
  constructor
  · rintro ⟨r, h⟩
    cases r with
    | off => exact .inl h
    | val => exact .inr (.inl h)
    | tin => exact .inr (.inr (.inl h))
    | bin => exact .inr (.inr (.inr h))
  · rintro (h | h | h | h) <;> exact ⟨_, h⟩

/-- R214's cases for the registers that R61 gives the command's class. -/
theorem endsUndefined_iff (i : Instr) (s : State) :
    EndsUndefined i s ↔
      match commandClass i with
      | .lengthClass => False
      | .encselClass => i.ctl.tv = true ∧ s.tin = .noValue
      | .textToBytes => s.tin = .noValue
      | .bytesToText => s.bin = .noValue
      | .numericRead _ => OffsetUnwritten i.ctl s
      | .numericWrite n => WriteUndefined n i.ctl s := by
  unfold EndsUndefined readsOperand OffsetUnwritten WriteUndefined
  rw [exists_operandName]
  cases commandClass i <;> simp [State.unwritten, OffsetUnwritten, or_assoc]

theorem exec_read_faultsExactly {i : Instr} {n : Nat} (h : commandClass i = .numericRead n) (s : State) :
    FaultsExactlyWhen (OffsetUnwritten i.ctl s) (exec i s) := by
  cases readsAs_of_class h with
  | int ty e hexec => rw [hexec s]; exact readInt_faultsExactly ty e i.ctl s
  | single e hexec => rw [hexec s]; exact readF32_faultsExactly e i.ctl s
  | double e hexec => rw [hexec s]; exact readF64_faultsExactly e i.ctl s

theorem exec_write_faultsExactly {i : Instr} {n : Nat} (h : commandClass i = .numericWrite n) (s : State) :
    FaultsExactlyWhen (WriteUndefined n i.ctl s) (exec i s) := by
  cases writesAs_of_class h with
  | int ty e hexec => rw [hexec s]; exact writeInt_faultsExactly ty e i.ctl s
  | single e hexec => rw [hexec s]; exact writeF32_faultsExactly e i.ctl s
  | double e hexec => rw [hexec s]; exact writeF64_faultsExactly e i.ctl s

theorem exec_faultsExactly (i : Instr) (s : State) : FaultsExactlyWhen (EndsUndefined i s) (exec i s) := by
  rw [endsUndefined_iff]
  cases i with
  | length c => exact .next id _
  | encsel c => exact execEncsel_faultsExactly c s
  | b64dec c | hexdec c => exact textToBytes_faultsExactly _ s
  | u8enc c => exact textToBytes_faultsExactly (fun t => .ok (u8Encode t)) s
  | b64enc c | hexenc c => exact bytesToText_faultsExactly _ s
  | u8dec c => exact execU8dec_faultsExactly c s
  | readU8 | readI8 | readU16LE | readU16BE | readI16LE | readI16BE | readU32LE | readU32BE | readI32LE | readI32BE | readF32LE
  | readF32BE | readF64LE | readF64BE => exact exec_read_faultsExactly rfl s
  | writeU8 | writeI8 | writeU16LE | writeU16BE | writeI16LE | writeI16BE | writeU32LE | writeU32BE | writeI32LE | writeI32BE
  | writeF32LE | writeF32BE | writeF64LE | writeF64BE => exact exec_write_faultsExactly rfl s

/-- Settles O16: by the command's class, its operands and its check fault exactly in R214's cases, and only with the faulted
state. -/
theorem undefinedExactlyInItsCases : Obligations.UndefinedExactlyInItsCases := by
  intro i s
  have h := exec_faultsExactly i s
  refine ⟨h.ne_refused, h.exists_fault_iff, fun f hf => ?_⟩
  obtain ⟨why, rfl⟩ := exec_faultsAs i s f hf
  exact ⟨why, s.faulted, rfl, s.faulted_undef⟩

/-! ## The flag bits a class reads (R61) -/

section
variable {c d : Ctl} (ha : c.a = d.a) (hov : c.ov = d.ov)
include ha hov

theorem readCheck_congr (n : Nat) (s : State) : readCheck n c s = readCheck n d s := by
  simp only [readCheck, offsetOperand, ha, hov]

theorem readInt_congr (ty : IntType) (e : Endian) (s : State) : readInt ty e c s = readInt ty e d s := by
  simp only [readInt, readCheck_congr ha hov]

theorem readF32_congr (e : Endian) (s : State) : readF32 e c s = readF32 e d s := by
  simp only [readF32, readCheck_congr ha hov]

theorem readF64_congr (e : Endian) (s : State) : readF64 e c s = readF64 e d s := by
  simp only [readF64, readCheck_congr ha hov]

variable (hvv : c.vv = d.vv)
include hvv

theorem writeCheck_congr {α : Type} (n : Nat) (judge : Bits64 → Except ErrorKind α) (s : State) :
    writeCheck n judge c s = writeCheck n judge d s := by
  simp only [writeCheck, offsetOperand, valueOperand, ha, hov, hvv]

theorem writeInt_congr (ty : IntType) (e : Endian) (s : State) : writeInt ty e c s = writeInt ty e d s := by
  simp only [writeInt, writeCheckInt, writeCheck_congr ha hov hvv]

theorem writeF32_congr (e : Endian) (s : State) : writeF32 e c s = writeF32 e d s := by
  simp only [writeF32, writeCheckFloat, writeCheck_congr ha hov hvv]

theorem writeF64_congr (e : Endian) (s : State) : writeF64 e c s = writeF64 e d s := by
  simp only [writeF64, writeCheckFloat, writeCheck_congr ha hov hvv]

end

theorem execEncsel_congr {c d : Ctl} (htv : c.tv = d.tv) (s : State) : execEncsel c s = execEncsel d s := by
  simp only [execEncsel, nameOperand, htv]

/-- Settles O18: the text commands and LENGTH are given no flag bit, and the shared operations use no others than R61's. -/
theorem unusedFlagBitsAreIgnored : Obligations.UnusedFlagBitsAreIgnored := by
  refine fun s c d => ⟨⟨rfl, rfl, rfl, rfl, rfl, rfl, rfl⟩, fun htv => execEncsel_congr htv s, fun ha hov => ?_,
    fun ha hov hvv => ?_⟩
  · have hint := fun ty e => readInt_congr ha hov ty e s
    have hf32 := fun e => readF32_congr ha hov e s
    have hf64 := fun e => readF64_congr ha hov e s
    simp only [List.forall_mem_cons]
    exact ⟨hint .u8 .little, hint .i8 .little, hint .u16 .little, hint .u16 .big, hint .i16 .little, hint .i16 .big,
      hint .u32 .little, hint .u32 .big, hint .i32 .little, hint .i32 .big, hf32 .little, hf32 .big, hf64 .little, hf64 .big,
      List.forall_mem_nil _⟩
  · have hint := fun ty e => writeInt_congr ha hov hvv ty e s
    have hf32 := fun e => writeF32_congr ha hov hvv e s
    have hf64 := fun e => writeF64_congr ha hov hvv e s
    simp only [List.forall_mem_cons]
    exact ⟨hint .u8 .little, hint .i8 .little, hint .u16 .little, hint .u16 .big, hint .i16 .little, hint .i16 .big,
      hint .u32 .little, hint .u32 .big, hint .i32 .little, hint .i32 .big, hf32 .little, hf32 .big, hf64 .little, hf64 .big,
      List.forall_mem_nil _⟩

end Sys2Proof.Machine
end

section
/-! Block control (40_block R80 to R82): LengthReadsTheByteCount, EncselResolvesTheThreeNames. -/

namespace Sys2Proof.Machine

/-! ## LENGTH -/

theorem execLength_eq (c : Ctl) (s : State) : execLength c s = .next { s with result := bits64Int s.len, status := 0 } := by
  rw [execLength, setResult_done_eq]

/-- Settles O26: LEN is an integer within R7's bound, so its pattern is exact. -/
theorem lengthReadsTheByteCount : Obligations.LengthReadsTheByteCount := by
  intro c s hlen
  have hexact : isBits64 ((s.len : ℤ) : ℚ) (bits64Int s.len) := isBits64_bits64Int (by omega)
  exact ⟨_, execLength_eq c s, by rwa [Int.cast_natCast] at hexact⟩

/-! ## Names up to ASCII case (R82) -/

theorem foldCodePoint_eq_iff {x y : CodePoint} (hy : ¬ (65 ≤ y.toNat ∧ y.toNat ≤ 90)) :
    foldCodePoint x = y ↔ x = y ∨ (65 ≤ x.toNat ∧ x.toNat ≤ 90 ∧ x.toNat + 32 = y.toNat) := by
  unfold foldCodePoint
  split <;> bv_omega

/-- Folding and comparing is comparing up to case, for a name that has no capital letter. -/
theorem fold_eq_iff {name : List CodePoint} (hname : ∀ y ∈ name, ¬ (65 ≤ y.toNat ∧ y.toNat ≤ 90)) (t : List CodePoint) :
    fold t = name ↔ SameUpToCase t name := by
  unfold fold SameUpToCase
  induction name generalizing t with
  | nil => simp
  | cons y name ih =>
    obtain ⟨hy, hrest⟩ := List.forall_mem_cons.1 hname
    cases t with
    | nil => simp
    | cons x t => rw [List.map_cons, List.cons.injEq, List.forall₂_cons, foldCodePoint_eq_iff hy, ih hrest]

theorem fold_eq_nameBase64_iff (t : List CodePoint) : fold t = nameBase64 ↔ SameUpToCase t nameBase64 :=
  fold_eq_iff (by simp [nameBase64]) t

theorem fold_eq_nameHex_iff (t : List CodePoint) : fold t = nameHex ↔ SameUpToCase t nameHex :=
  fold_eq_iff (by simp [nameHex]) t

theorem fold_eq_nameUtf8_iff (t : List CodePoint) : fold t = nameUtf8 ↔ SameUpToCase t nameUtf8 :=
  fold_eq_iff (by simp [nameUtf8]) t

/-! ## The ENC code of a name (R81) -/

section
variable {t : List CodePoint}

theorem encodingCode_base64 (h : SameUpToCase t nameBase64) : encodingCode (some t) = .ok 0 := by
  rw [← fold_eq_nameBase64_iff] at h
  simp only [encodingCode, if_pos h]

theorem encodingCode_hex (h : SameUpToCase t nameHex) : encodingCode (some t) = .ok 1 := by
  rw [← fold_eq_nameHex_iff] at h
  have hne : nameHex ≠ nameBase64 := by decide
  simp only [encodingCode, h, if_neg hne, if_true]

theorem encodingCode_utf8 (h : SameUpToCase t nameUtf8) : encodingCode (some t) = .ok 2 := by
  rw [← fold_eq_nameUtf8_iff] at h
  have hne : nameUtf8 ≠ nameBase64 ∧ nameUtf8 ≠ nameHex := by decide
  simp only [encodingCode, h, if_neg hne.1, if_neg hne.2, if_true]

theorem encodingCode_other (hbase64 : ¬ SameUpToCase t nameBase64) (hhex : ¬ SameUpToCase t nameHex)
    (hutf8 : ¬ SameUpToCase t nameUtf8) : encodingCode (some t) = .error .unsupportedEncoding := by
  rw [← fold_eq_nameBase64_iff] at hbase64
  rw [← fold_eq_nameHex_iff] at hhex
  rw [← fold_eq_nameUtf8_iff] at hutf8
  simp only [encodingCode, if_neg hbase64, if_neg hhex, if_neg hutf8]

end

/-! ## ENCSEL -/

section
variable {c : Ctl} {s : State} {name : Option (List CodePoint)}

theorem nameOperand_of_omitted (htv : c.tv = false) : nameOperand c s = .ok none := by
  rw [nameOperand, htv, readIf_false]

theorem nameOperand_of_holds {t : List CodePoint} (htv : c.tv = true) (ht : s.tin = .holds t) :
    nameOperand c s = .ok (some t) := by
  rw [nameOperand, htv, ht, readIf_holds]

/-- A name with an ENC code: RESULT is that number, and STATUS 0. -/
theorem execEncsel_of_ok {k : ℤ} (hname : nameOperand c s = .ok name) (hcode : encodingCode name = .ok k)
    (hk : k.natAbs ≤ 2 ^ 53) : ∃ r, execEncsel c s = .next { s with result := r, status := 0 } ∧ isBits64 k r := by
  refine ⟨bits64Int k, ?_, isBits64_bits64Int hk⟩
  simp only [execEncsel, hname, hcode]
  rw [setResult_done_eq]

theorem execEncsel_of_error {e : ErrorKind} (hname : nameOperand c s = .ok name) (hcode : encodingCode name = .error e) :
    execEncsel c s = .next { s with status := e.code } := by
  simp only [execEncsel, hname, hcode]
  rfl

end

/-- Settles O27: the operand is the name or its absence, and the name's code decides the end. -/
theorem encselResolvesTheThreeNames : Obligations.EncselResolvesTheThreeNames := by
  refine fun c s => ⟨fun htv => ?_, fun t htv ht => ?_⟩
  · exact mod_cast execEncsel_of_ok (nameOperand_of_omitted htv) (k := 2) rfl (by decide)
  have hname := nameOperand_of_holds htv ht
  refine ⟨fun h => ?_, fun h => ?_, fun h => ?_, fun hbase64 hhex hutf8 => ?_⟩
  · exact mod_cast execEncsel_of_ok hname (encodingCode_base64 h) (by decide)
  · exact mod_cast execEncsel_of_ok hname (encodingCode_hex h) (by decide)
  · exact mod_cast execEncsel_of_ok hname (encodingCode_utf8 h) (by decide)
  · exact execEncsel_of_error hname (encodingCode_other hbase64 hhex hutf8)

end Sys2Proof.Machine
end

section
/-! Base64 round trip (41_base64 R93): Base64RoundTrip. Decoding the groups of an encoding gives the bytes and one zero byte for each
'=', and the decoder drops as many bytes as there are '='. -/

namespace Sys2Proof.Machine

/-- The number of '=' that complete the last group of an encoding (41_base64 R92). -/
def b64PadCount (bs : List Byte) : Nat := (3 - bs.length % 3) % 3

theorem b64PadCount_le_two (bs : List Byte) : b64PadCount bs ≤ 2 := by
  unfold b64PadCount
  omega

theorem b64PadCount_group (b0 b1 b2 : Byte) (bs : List Byte) : b64PadCount (b0 :: b1 :: b2 :: bs) = b64PadCount bs := by
  simp [b64PadCount, Nat.add_assoc]

theorem b64PadCount_one (b0 : Byte) : b64PadCount [b0] = 2 := rfl

theorem b64PadCount_two (b0 b1 : Byte) : b64PadCount [b0, b1] = 1 := rfl

/-! ## A group, encoded and decoded -/

theorem and_63_lt (n : Nat) : n &&& 63 < 64 := Nat.lt_succ_of_le Nat.and_le_right

theorem byte_shiftRight_two_lt (b : Byte) : b.toNat >>> 2 < 64 := by
  have hb := b.isLt
  rw [Nat.shiftRight_eq_div_pow]
  omega

theorem b64Value_b64Char {v : Nat} (h : v < 64) : b64Value (b64Char v) = v := by
  rw [b64Value, b64Index_b64Char h, Option.getD_some]

theorem b64Value_b64Pad : b64Value b64Pad = 0 := by decide

/-- The byte made of two six-bit symbols, by its number. -/
theorem ofNat_symbols_eq {a b k j : Nat} {x : Byte} (hb : b < 64) (hkj : k + j = 6)
    (hx : (a * 64 + b) / 2 ^ j % 256 = x.toNat) : BitVec.ofNat 8 (a <<< k ||| b >>> j) = x := by
  rw [ofNat_shiftLeft_or_shiftRight hb hkj, hx, BitVec.ofNat_toNat, BitVec.setWidth_eq]

/-- The four symbol values of three bytes (R92), read as bytes (R90), are those bytes. -/
theorem b64GroupBytes_symbols (b0 b1 b2 : Byte) :
    b64GroupBytes (b0.toNat >>> 2) ((b0.toNat <<< 4 ||| b1.toNat >>> 4) &&& 63)
      ((b1.toNat <<< 2 ||| b2.toNat >>> 6) &&& 63) (b2.toNat &&& 63) = [b0, b1, b2] := by
  have h0 := b0.isLt
  have h1 := b1.isLt
  have h2 := b2.isLt
  rw [and_63, and_63, and_63, shiftLeft_or_shiftRight 4 4 (by omega), shiftLeft_or_shiftRight 2 6 (by omega),
    Nat.shiftRight_eq_div_pow, b64GroupBytes, ofNat_symbols_eq (x := b0) (by omega) rfl (by omega),
    ofNat_symbols_eq (x := b1) (by omega) rfl (by omega), ← Nat.shiftRight_zero (n := b2.toNat % 64),
    ofNat_symbols_eq (x := b2) (by omega) rfl (by omega)]

theorem b64GroupBytes_b64Char (b0 b1 b2 : Byte) :
    b64GroupBytes (b64Value (b64Char (b0.toNat >>> 2))) (b64Value (b64Char ((b0.toNat <<< 4 ||| b1.toNat >>> 4) &&& 63)))
      (b64Value (b64Char ((b1.toNat <<< 2 ||| b2.toNat >>> 6) &&& 63))) (b64Value (b64Char (b2.toNat &&& 63))) =
        [b0, b1, b2] := by
  rw [b64Value_b64Char (byte_shiftRight_two_lt b0), b64Value_b64Char (and_63_lt _), b64Value_b64Char (and_63_lt _),
    b64Value_b64Char (and_63_lt _), b64GroupBytes_symbols]

/-! ## The whole encoding -/

/-- A '=' counts as the symbol value 0, so a padded group decodes as if zero bytes completed it. -/
theorem b64Groups_b64Encode (bs : List Byte) : b64Groups (b64Encode bs) = bs ++ List.replicate (b64PadCount bs) 0 := by
  induction bs using b64Encode.induct with
  | case1 => rfl
  | case2 b0 =>
    simpa [b64Encode, b64Groups, b64PadCount_one, b64Value_b64Pad, b64Value_b64Char] using b64GroupBytes_b64Char b0 0 0
  | case3 b0 b1 =>
    simpa [b64Encode, b64Groups, b64PadCount_two, b64Value_b64Pad, b64Value_b64Char] using b64GroupBytes_b64Char b0 b1 0
  | case4 b0 b1 b2 rest ih =>
    rw [b64Encode, b64PadCount_group]
    simp only [b64GroupChars, List.cons_append, List.nil_append, b64Groups, b64GroupBytes_b64Char, ih]

theorem sixBitValue_b64Char_ne_none {v : Nat} (h : v < 64) : sixBitValue (b64Char v) ≠ none := by
  rw [sixBitValue_b64Char h]
  exact Option.some_ne_none v

/-- An encoding is characters of the alphabet, then '=' in the number R92 gives. -/
theorem exists_symbols_b64Encode (bs : List Byte) : ∃ body, (∀ p ∈ body, sixBitValue p ≠ none) ∧
    b64Encode bs = body ++ List.replicate (b64PadCount bs) b64Pad := by
  have hlow (n : Nat) := sixBitValue_b64Char_ne_none (and_63_lt n)
  have hfirst (b : Byte) := sixBitValue_b64Char_ne_none (byte_shiftRight_two_lt b)
  induction bs using b64Encode.induct with
  | case1 => exact ⟨[], nofun, rfl⟩
  | case2 b0 => exact ⟨(b64Encode [b0]).take 2, by simp [b64Encode, hlow, hfirst], rfl⟩
  | case3 b0 b1 => exact ⟨(b64Encode [b0, b1]).take 3, by simp [b64Encode, hlow, hfirst], rfl⟩
  | case4 b0 b1 b2 rest ih =>
    obtain ⟨body, hbody, heq⟩ := ih
    refine ⟨b64GroupChars b0.toNat b1.toNat b2.toNat ++ body, ?_, ?_⟩
    · simpa [b64GroupChars, hlow, hfirst] using hbody
    · rw [b64Encode, b64PadCount_group, heq, List.append_assoc]

/-- An encoding passes the decoder's padding and alphabet checks (R91), and its trailing '=' are those that R92 put there. -/
theorem b64Encode_passes_checks (bs : List Byte) :
    ¬ PaddingMisplaced (b64Encode bs) ∧ b64Padding (b64Encode bs) = b64PadCount bs ∧
      ¬ (b64Body (b64Encode bs)).any (fun c => (b64Index c).isNone) = true := by
  obtain ⟨body, hbody, heq⟩ := exists_symbols_b64Encode bs
  have hpad : b64Pad ∉ body := fun h => hbody b64Pad h (by decide)
  have hplaced : ¬ PaddingMisplaced (b64Encode bs) := by
    rw [heq, paddingMisplaced_append _ fun h => hpad (List.mem_of_getLast? h), not_or]
    exact ⟨Nat.not_lt.2 (b64PadCount_le_two bs), hpad⟩
  refine ⟨hplaced, ?_, ?_⟩
  · rw [← count_b64Pad hplaced, heq, List.count_append, List.count_eq_zero.2 hpad, List.count_replicate_self, Nat.zero_add]
  · rw [any_illegal_iff hplaced, heq]
    rintro ⟨p, hp, hne, hnone⟩
    rcases List.mem_append.1 hp with hp | hp
    · exact hbody p hp hnone
    · exact hne (List.eq_of_mem_replicate hp)

theorem b64Decode_b64Encode (bs : List Byte) : b64Decode (b64Encode bs) = .ok bs := by
  obtain ⟨hplaced, hpadding, hany⟩ := b64Encode_passes_checks bs
  have hlen : (b64Encode bs).length % 4 = 0 := by rw [length_b64Encode, Nat.mul_mod_right]
  rw [b64Decode_of_placed hlen hplaced, if_neg hany, hpadding, b64Groups_b64Encode, List.length_append, List.length_replicate,
    Nat.add_sub_cancel, List.take_left]

/-! ## The two commands -/

theorem exec_b64enc_of_eq {c : Ctl} {s : State} {bs : List Byte} {t : List CodePoint} (hb : s.bin = .holds bs)
    (h : b64Encode bs = t) : exec (.b64enc c) s = .next { s with tout := t, status := 0 } :=
  h ▸ bytesToText_of_holds b64Encode hb

theorem exec_b64dec_of_ok {c : Ctl} {s : State} {t : List CodePoint} {bs : List Byte} (ht : s.tin = .holds t)
    (h : b64Decode t = .ok bs) : exec (.b64dec c) s = .next { s with bout := bs, status := 0 } :=
  textToBytes_of_ok ht h

/-- Settles O30: the codec's round trip for every byte list, and R93's two texts for the byte 0x41, of which the encoder gives one. -/
theorem base64RoundTrip : Obligations.Base64RoundTrip := by
  refine ⟨fun c d s bs hb => ?_, fun c d s ht => ?_⟩
  · exact ⟨_, exec_b64enc_of_eq hb rfl, rfl, exec_b64dec_of_ok rfl (b64Decode_b64Encode bs)⟩
  · have hdec : b64Decode [0x51, 0x52, 0x3D, 0x3D] = .ok [0x41] := by decide
    have henc : b64Encode [0x41] = [0x51, 0x51, 0x3D, 0x3D] := by decide
    exact ⟨_, exec_b64dec_of_ok ht hdec, rfl, rfl, exec_b64enc_of_eq rfl henc⟩

end Sys2Proof.Machine
end

section
/-! Hex round trip (42_hex R103): HexRoundTrip. The decoder reads each digit the encoder writes as its value, and the encoder writes
no upper-case digit. -/

namespace Sys2Proof.Machine

/-! ## Decoding an encoding -/

theorem hexDigitValue_hexDigit {v : Nat} (h : v < 16) : hexDigitValue (hexDigit v) = some v := by
  have hall : ∀ v < 16, hexDigitValue (hexDigit v) = some v := by decide
  exact hall v h

theorem hexPairs_hexEncode (bs : List Byte) : hexPairs (hexEncode bs) = .ok bs := by
  induction bs with
  | nil => rfl
  | cons b bs ih =>
    have hbyte : b.toNat < 256 := b.isLt
    have hhigh : hexDigitValue (hexDigit (b.toNat / 16)) = some (b.toNat / 16) := hexDigitValue_hexDigit (by omega)
    have hlow : hexDigitValue (hexDigit (b.toNat % 16)) = some (b.toNat % 16) := hexDigitValue_hexDigit (by omega)
    simp only [hexEncode_cons, hexPairs, hexValue_eq_hexDigitValue, hhigh, hlow, ih, Nat.div_add_mod, BitVec.ofNat_toNat,
      BitVec.setWidth_eq, Except.map]

theorem hexDecode_of_even {t : List CodePoint} (h : t.length % 2 = 0) : hexDecode t = hexPairs t :=
  if_neg (not_not.2 h)

theorem hexDecode_hexEncode (bs : List Byte) : hexDecode (hexEncode bs) = .ok bs := by
  rw [hexDecode_of_even (by rw [length_hexEncode, Nat.mul_mod_right]), hexPairs_hexEncode]

/-! ## An encoding is lower case -/

theorem lowerHexDigit_not_upper (v : Nat) : ¬ (65 ≤ lowerHexDigit v ∧ lowerHexDigit v ≤ 70) := by
  unfold lowerHexDigit
  split <;> omega

theorem hexEncode_not_upper {bs : List Byte} {p : CodePoint} (hp : p ∈ hexEncode bs) : ¬ (65 ≤ p.toNat ∧ p.toNat ≤ 70) := by
  induction bs with
  | nil => exact absurd hp List.not_mem_nil
  | cons b bs ih =>
    have hbyte : b.toNat < 256 := b.isLt
    rw [hexEncode_cons, List.mem_cons, List.mem_cons] at hp
    obtain rfl | rfl | hp := hp
    · rw [toNat_hexDigit (by omega)]
      exact lowerHexDigit_not_upper _
    · rw [toNat_hexDigit (by omega)]
      exact lowerHexDigit_not_upper _
    · exact ih hp

/-! ## The two commands -/

theorem exec_hexenc_of_eq {c : Ctl} {s : State} {bs : List Byte} {t : List CodePoint} (hb : s.bin = .holds bs)
    (h : hexEncode bs = t) : exec (.hexenc c) s = .next { s with tout := t, status := 0 } :=
  h ▸ bytesToText_of_holds hexEncode hb

theorem exec_hexdec_of_ok {c : Ctl} {s : State} {t : List CodePoint} {bs : List Byte} (ht : s.tin = .holds t)
    (h : hexDecode t = .ok bs) : exec (.hexdec c) s = .next { s with bout := bs, status := 0 } :=
  textToBytes_of_ok ht h

/-- Settles O33: the codec's round trip for every byte list; a text with an upper-case digit is no encoding, so no bytes encode to it;
and R103's text "FF". -/
theorem hexRoundTrip : Obligations.HexRoundTrip := by
  refine ⟨fun c d s bs hb => ?_, fun c d s text ht hlen hdigits hupper => ?_, fun c d s ht => ?_⟩
  · exact ⟨_, exec_hexenc_of_eq hb rfl, rfl, exec_hexdec_of_ok rfl (hexDecode_hexEncode bs)⟩
  · obtain ⟨out, hpairs, -⟩ := hexPairs_of_digits hlen hdigits
    have hdec : hexDecode text = .ok out := (hexDecode_of_even hlen).trans hpairs
    refine ⟨_, _, exec_hexdec_of_ok ht hdec, rfl, exec_hexenc_of_eq rfl rfl, ?_⟩
    obtain ⟨p, hp, hup⟩ := hupper
    rintro rfl
    exact hexEncode_not_upper hp hup
  · have hdec : hexDecode [0x46, 0x46] = .ok [0xFF] := by decide
    have henc : hexEncode [0xFF] = [0x66, 0x66] := by decide
    exact ⟨_, exec_hexdec_of_ok ht hdec, rfl, rfl, exec_hexenc_of_eq rfl henc⟩

end Sys2Proof.Machine
end

section
/-! Extended UTF-8 (43_utf8 R110 to R115): U8encEncodesEveryText, U8decDecodesEveryByteList, Utf8RoundTrip. The decoder takes one
sequence after another from the front of its input, and the bytes that the encoder gives a code point are such a sequence. -/

namespace Sys2Proof.Machine

/-! ## U8ENC -/

theorem u8Len_le (cp : Nat) : u8Len cp ≤ 6 := by
  unfold u8Len
  split_ifs <;> decide

theorem le_of_u8Len_eq_one {cp : Nat} (h : u8Len cp = 1) : cp ≤ 127 := by
  unfold u8Len at h
  split_ifs at h <;> omega

/-- What the continuation bytes leave of a code point fits its lead byte (R110). -/
theorem u8Len_fits {cp : Nat} (hcp : cp < 2 ^ 31) (h : u8Len cp ≠ 1) :
    2 ≤ u8Len cp ∧ cp / 2 ^ (6 * (u8Len cp - 1)) < 2 ^ (7 - u8Len cp) := by
  unfold u8Len at h ⊢
  split_ifs at h ⊢ <;> omega

/-- The lead byte is `n` ones and a zero, and then the high bits of the code point (R110). -/
theorem toNat_u8Lead {n cp : Nat} (hlow : 2 ≤ n) (hhigh : n ≤ 6) (h : cp / 2 ^ (6 * (n - 1)) < 2 ^ (7 - n)) :
    (u8Lead n cp).toNat = 256 - 2 ^ (8 - n) + cp / 2 ^ (6 * (n - 1)) := by
  have hones : (0xFF <<< (8 - n)) &&& 0xFF = (2 ^ n - 1) <<< (8 - n) := by
    interval_cases n <;> rfl
  have hhead : (2 ^ n - 1) * 2 ^ (8 - n) = 256 - 2 ^ (8 - n) := by
    interval_cases n <;> rfl
  have hroom : 2 ^ (8 - n) = 2 * 2 ^ (7 - n) ∧ 2 ^ (8 - n) ≤ 256 := by
    interval_cases n <;> decide
  rw [u8Lead, hones, shiftLeft_or_shiftRight _ _ (by omega), BitVec.toNat_ofNat, Nat.mod_eq_of_lt (by omega), hhead]

/-- A continuation byte is `10` and then six bits of the code point. -/
theorem toNat_u8Cont (n i cp : Nat) : (u8Cont n i cp).toNat = 128 + cp / 2 ^ (6 * (n - 1 - i)) % 64 := by
  have hor : 0x80 ||| cp / 2 ^ (6 * (n - 1 - i)) % 64 = 128 + cp / 2 ^ (6 * (n - 1 - i)) % 64 :=
    (Nat.two_pow_add_eq_or_of_lt (i := 7) (by omega) 1).symm
  rw [u8Cont, Nat.shiftRight_eq_div_pow, and_63, hor, BitVec.toNat_ofNat, Nat.mod_eq_of_lt (by omega)]

theorem map_toNat_u8EncodeOne_of_one {p : CodePoint} (h : u8Len p.toNat = 1) :
    (u8EncodeOne p).map BitVec.toNat = [p.toNat] := by
  have hp := le_of_u8Len_eq_one h
  simp only [u8EncodeOne, if_pos h, List.map_singleton, BitVec.toNat_ofNat, Nat.mod_eq_of_lt (show p.toNat < 2 ^ 8 by omega)]

theorem map_toNat_u8EncodeOne_of_more {p : CodePoint} (h : u8Len p.toNat ≠ 1) :
    (u8EncodeOne p).map BitVec.toNat =
      (256 - 2 ^ (8 - u8Len p.toNat) + p.toNat / 2 ^ (6 * (u8Len p.toNat - 1))) ::
        (List.range (u8Len p.toNat - 1)).map fun j => 128 + p.toNat / 2 ^ (6 * (u8Len p.toNat - 1 - (j + 1))) % 64 := by
  obtain ⟨hlow, hfits⟩ := u8Len_fits p.isLt h
  simp only [u8EncodeOne, if_neg h, List.map_cons, List.map_map, Function.comp_def, toNat_u8Cont,
    toNat_u8Lead hlow (u8Len_le _) hfits]

/-- The bytes of a code point are those of R110's table: one case per row. -/
theorem map_toNat_u8EncodeOne (p : CodePoint) : (u8EncodeOne p).map BitVec.toNat = utf8Bytes p.toNat := by
  by_cases h : u8Len p.toNat = 1
  · rw [map_toNat_u8EncodeOne_of_one h, utf8Bytes, if_pos (le_of_u8Len_eq_one h)]
  · rw [map_toNat_u8EncodeOne_of_more h]
    unfold u8Len at h ⊢
    unfold utf8Bytes
    split_ifs at h ⊢
    · exact absurd rfl h
    all_goals simp [List.range_succ]

theorem exec_u8enc_of_eq {c : Ctl} {s : State} {t : List CodePoint} {bs : List Byte} (ht : s.tin = .holds t)
    (h : u8Encode t = bs) : exec (.u8enc c) s = .next { s with bout := bs, status := 0 } :=
  textToBytes_of_ok (codec := fun t => .ok (u8Encode t)) ht (congrArg Except.ok h)

/-- Settles O34: the model's bytes are R110's, one code point at a time. -/
theorem u8encEncodesEveryText : Obligations.U8encEncodesEveryText := by
  intro c s t ht
  refine ⟨u8Encode t, exec_u8enc_of_eq ht rfl, ?_⟩
  simp only [u8Encode, List.map_flatMap, map_toNat_u8EncodeOne]

/-! ## One sequence -/

theorem u8Seq_of_lt {b : Nat} (h : b < 254) : u8Seq b = some (sequenceLength b) := by
  unfold u8Seq sequenceLength
  split_ifs <;> rfl

theorem u8Seq_of_ge {b : Nat} (h : 254 ≤ b) : u8Seq b = none := by
  unfold u8Seq
  repeat rw [if_neg (by omega)]

/-- R112's table, read from the length. -/
theorem sequenceLength_rows (b : Nat) :
    (sequenceLength b = 1 ↔ b < 128) ∧ (sequenceLength b = 2 ↔ 128 ≤ b ∧ b < 224) ∧
      (sequenceLength b = 3 ↔ 224 ≤ b ∧ b < 240) ∧ (sequenceLength b = 4 ↔ 240 ≤ b ∧ b < 248) ∧
      (sequenceLength b = 5 ↔ 248 ≤ b ∧ b < 252) ∧ (sequenceLength b = 6 ↔ 252 ≤ b) := by
  unfold sequenceLength
  split_ifs <;> omega

theorem sequenceLength_pos (b : Nat) : 1 ≤ sequenceLength b := by
  unfold sequenceLength
  split_ifs <;> decide

theorem sequenceLength_le (b : Nat) : sequenceLength b ≤ 6 := by
  unfold sequenceLength
  split_ifs <;> decide

/-- The mask of R112 keeps the bits after the leading ones and zero. -/
theorem and_leadMask (b : Nat) {n : Nat} (h : n ≤ 7) : b &&& (0x7F >>> n) = b % 2 ^ (7 - n) := by
  have hmask : 0x7F >>> n = 2 ^ (7 - n) - 1 := by interval_cases n <;> rfl
  rw [hmask, Nat.and_two_pow_sub_one_eq_mod]

/-- The number that a lead byte's bits `v` and the continuation bytes give (R113), by plain arithmetic. -/
def appendSixBits (v : Nat) (conts : List Byte) : Nat := conts.foldl (fun cp b => cp * 64 + b.toNat % 64) v

/-- Each continuation byte adds six bits. -/
theorem appendSixBits_lt {v k : Nat} (h : v < 2 ^ k) (conts : List Byte) :
    appendSixBits v conts < 2 ^ (k + 6 * conts.length) := by
  induction conts generalizing v k with
  | nil => exact h
  | cons b conts ih =>
    have hnext : v * 64 + b.toNat % 64 < 2 ^ (k + 6) := by rw [Nat.pow_add]; omega
    rw [List.length_cons, show k + 6 * (conts.length + 1) = k + 6 + 6 * conts.length by omega]
    exact ih hnext

/-- The bits of a lead byte of an `n`-byte sequence (R112). -/
def leadBits (n b0 : Nat) : Nat := if n = 1 then b0 else b0 % 2 ^ (7 - n)

theorem leadBits_lt (b0 : Byte) {m : Nat} (h : m ≤ 5) : leadBits (m + 1) b0.toNat < 2 ^ (31 - 6 * m) := by
  unfold leadBits
  split_ifs with hone
  · obtain rfl : m = 0 := by omega
    exact b0.isLt.trans (by decide)
  · exact (Nat.mod_lt _ (Nat.two_pow_pos _)).trans_le (Nat.pow_le_pow_right (by decide) (by omega))

theorem u8CodePoint_eq (b0 : Nat) {n : Nat} (h : n ≤ 6) (conts : List Byte) :
    u8CodePoint n b0 conts = BitVec.ofNat 31 (appendSixBits (leadBits n b0) conts) := by
  simp only [u8CodePoint, and_63, and_leadMask b0 (show n ≤ 7 by omega)]
  rfl

/-- Every decoded number is a code point: nothing is cut off (R113). -/
theorem appendSixBits_leadBits_lt (b0 : Byte) {conts : List Byte} (h : conts.length + 1 ≤ 6) :
    appendSixBits (leadBits (conts.length + 1) b0.toNat) conts < 2 ^ 31 := by
  have hlead := leadBits_lt b0 (show conts.length ≤ 5 by omega)
  have hbits := appendSixBits_lt hlead conts
  rwa [Nat.sub_add_cancel (by omega)] at hbits

theorem eq_ofNat_iff_toNat_eq {p : CodePoint} {v : Nat} (h : v < 2 ^ 31) : p = BitVec.ofNat 31 v ↔ p.toNat = v := by
  rw [← BitVec.toNat_inj, BitVec.toNat_ofNat, Nat.mod_eq_of_lt h]

/-- The statements' sequences, without a case for each length. -/
theorem isSequence_cons_iff (b0 : Byte) (conts : List Byte) (cp : Nat) :
    IsSequence (b0 :: conts) cp ↔ b0.toNat < 254 ∧ conts.length + 1 = sequenceLength b0.toNat ∧
      cp = appendSixBits (leadBits (conts.length + 1) b0.toNat) conts := by
  have hrows := sequenceLength_rows b0.toNat
  rcases conts with _ | ⟨b1, _ | ⟨b2, _ | ⟨b3, _ | ⟨b4, _ | ⟨b5, _ | ⟨b6, conts⟩⟩⟩⟩⟩⟩
  case cons.cons.cons.cons.cons.cons =>
    have hle := sequenceLength_le b0.toNat
    simp only [IsSequence, List.map, List.length, false_iff]
    omega
  all_goals
    simp only [IsSequence, List.map, List.length, appendSixBits, leadBits, List.foldl, Nat.reduceAdd, Nat.reduceSub,
      Nat.reduceEqDiff, reduceIte]
    omega

/-- A sequence is a lead byte that R112 gives a length, as many bytes as it asks for, and the code point R113 makes of them. -/
theorem isSequence_cons_toNat_iff (b0 : Byte) (conts : List Byte) (p : CodePoint) :
    IsSequence (b0 :: conts) p.toNat ↔ b0.toNat < 254 ∧ conts.length + 1 = sequenceLength b0.toNat ∧
      p = u8CodePoint (sequenceLength b0.toNat) b0.toNat conts := by
  rw [isSequence_cons_iff]
  refine and_congr_right fun _ => and_congr_right fun hlen => ?_
  have hle : conts.length + 1 ≤ 6 := hlen ▸ sequenceLength_le b0.toNat
  rw [← hlen, u8CodePoint_eq _ hle, eq_ofNat_iff_toNat_eq (appendSixBits_leadBits_lt b0 hle)]

theorem IsSequence.exists_cons {bs : List Byte} {cp : Nat} (h : IsSequence bs cp) : ∃ b0 conts, bs = b0 :: conts := by
  cases bs with
  | nil => exact h.elim
  | cons b0 conts => exact ⟨b0, conts, rfl⟩

/-! ## The loop of U8DEC -/

@[simp] theorem u8DecodeLoop_nil (fuel : Nat) : u8DecodeLoop fuel [] = ([], true) := by
  cases fuel <;> rfl

theorem u8DecodeLoop_of_undecodable {rest : List Byte} (h : UndecodableRest rest) (fuel : Nat) :
    u8DecodeLoop fuel rest = ([], false) := by
  obtain ⟨lead, more, rfl, h⟩ := h
  cases fuel with
  | zero => rfl
  | succ fuel =>
    rcases Nat.lt_or_ge lead.toNat 254 with hlead | hlead
    · have hshort : more.length < sequenceLength lead.toNat - 1 := by omega
      simp only [u8DecodeLoop, u8Seq_of_lt hlead, if_pos hshort]
    · simp only [u8DecodeLoop, u8Seq_of_ge hlead]

/-- One round takes one sequence from the front, whatever stands after it (R113). -/
theorem u8DecodeLoop_append {bs : List Byte} {p : CodePoint} (h : IsSequence bs p.toNat) (fuel : Nat) (rest : List Byte) :
    u8DecodeLoop (fuel + 1) (bs ++ rest) = (p :: (u8DecodeLoop fuel rest).1, (u8DecodeLoop fuel rest).2) := by
  obtain ⟨b0, conts, rfl⟩ := h.exists_cons
  obtain ⟨hlead, hlen, rfl⟩ := (isSequence_cons_toNat_iff b0 conts p).1 h
  have hconts : sequenceLength b0.toNat - 1 = conts.length := by omega
  have hroom : ¬ (conts ++ rest).length < conts.length := by simp
  simp only [List.cons_append, u8DecodeLoop, u8Seq_of_lt hlead, hconts, if_neg hroom, List.drop_left, List.take_left]

/-- Byte sequences with the code points they stand for, as the statement on U8DEC lists them. -/
def AreSequences (pieces : List (List Byte × CodePoint)) : Prop := ∀ q ∈ pieces, IsSequence q.1 q.2.toNat

theorem areSequences_cons {q : List Byte × CodePoint} {pieces : List (List Byte × CodePoint)} :
    AreSequences (q :: pieces) ↔ IsSequence q.1 q.2.toNat ∧ AreSequences pieces := List.forall_mem_cons

/-- One round for each sequence, and what is left of the fuel for the rest. -/
theorem u8DecodeLoop_sequences {pieces : List (List Byte × CodePoint)} (h : AreSequences pieces) (fuel : Nat)
    (rest : List Byte) :
    u8DecodeLoop (fuel + pieces.length) (pieces.flatMap Prod.fst ++ rest) =
      (pieces.map Prod.snd ++ (u8DecodeLoop fuel rest).1, (u8DecodeLoop fuel rest).2) := by
  induction pieces with
  | nil => rfl
  | cons q pieces ih =>
    obtain ⟨hq, hpieces⟩ := areSequences_cons.1 h
    rw [List.flatMap_cons, List.append_assoc, List.length_cons, ← Nat.add_assoc, u8DecodeLoop_append hq, ih hpieces,
      List.map_cons, List.cons_append]

/-- Each sequence has a byte, so the input's length is fuel enough. -/
theorem length_le_of_areSequences {pieces : List (List Byte × CodePoint)} (h : AreSequences pieces) :
    pieces.length ≤ (pieces.flatMap Prod.fst).length := by
  induction pieces with
  | nil => rfl
  | cons q pieces ih =>
    obtain ⟨hq, hpieces⟩ := areSequences_cons.1 h
    obtain ⟨b0, conts, hbytes⟩ := hq.exists_cons
    have htail := ih hpieces
    simp only [List.flatMap_cons, List.length_append, List.length_cons, hbytes]
    omega

/-- U8DEC decodes the sequences and goes on with the rest, with some fuel left. -/
theorem u8Decode_sequences_append {pieces : List (List Byte × CodePoint)} (h : AreSequences pieces) (rest : List Byte) :
    ∃ fuel, u8Decode (pieces.flatMap Prod.fst ++ rest) =
      (pieces.map Prod.snd ++ (u8DecodeLoop fuel rest).1, (u8DecodeLoop fuel rest).2) := by
  have hle : pieces.length ≤ (pieces.flatMap Prod.fst ++ rest).length :=
    (length_le_of_areSequences h).trans (by simp)
  refine ⟨(pieces.flatMap Prod.fst ++ rest).length - pieces.length, ?_⟩
  rw [← u8DecodeLoop_sequences h, Nat.sub_add_cancel hle, u8Decode]

theorem u8Decode_sequences {pieces : List (List Byte × CodePoint)} (h : AreSequences pieces) :
    u8Decode (pieces.flatMap Prod.fst) = (pieces.map Prod.snd, true) := by
  obtain ⟨fuel, heq⟩ := u8Decode_sequences_append h []
  simpa using heq

theorem u8Decode_of_undecodable {pieces : List (List Byte × CodePoint)} {rest : List Byte} (h : AreSequences pieces)
    (hrest : UndecodableRest rest) : u8Decode (pieces.flatMap Prod.fst ++ rest) = (pieces.map Prod.snd, false) := by
  obtain ⟨fuel, heq⟩ := u8Decode_sequences_append h rest
  rw [heq, u8DecodeLoop_of_undecodable hrest, List.append_nil]

/-- The input can be decoded at its front, or nothing of it can. -/
theorem exists_sequence_of_decodable {b0 : Byte} {more : List Byte} (h : ¬ UndecodableRest (b0 :: more)) :
    ∃ bs p rest, IsSequence bs (BitVec.toNat (p : CodePoint)) ∧ b0 :: more = bs ++ rest ∧ rest.length ≤ more.length := by
  have hdec : b0.toNat < 254 ∧ sequenceLength b0.toNat ≤ more.length + 1 := by
    by_contra hbad
    exact h ⟨b0, more, rfl, by omega⟩
  obtain ⟨hlead, hroom⟩ := hdec
  have hpos := sequenceLength_pos b0.toNat
  refine ⟨b0 :: more.take (sequenceLength b0.toNat - 1), _, more.drop (sequenceLength b0.toNat - 1),
    (isSequence_cons_toNat_iff _ _ _).2 ⟨hlead, ?_, rfl⟩, ?_, ?_⟩
  · rw [List.length_take]
    omega
  · rw [List.cons_append, List.take_append_drop]
  · rw [List.length_drop]
    omega

/-- Sequences are taken from the front until nothing is left or the rest cannot be decoded (R113, R114). -/
theorem exists_sequences (bs : List Byte) :
    ∃ pieces, AreSequences pieces ∧
      (bs = pieces.flatMap Prod.fst ∨ ∃ rest, UndecodableRest rest ∧ bs = pieces.flatMap Prod.fst ++ rest) := by
  induction hn : bs.length using Nat.strong_induction_on generalizing bs with
  | _ n ih =>
    cases bs with
    | nil => exact ⟨[], by simp [AreSequences], .inl rfl⟩
    | cons b0 more =>
      by_cases hbad : UndecodableRest (b0 :: more)
      · exact ⟨[], by simp [AreSequences], .inr ⟨_, hbad, rfl⟩⟩
      · obtain ⟨first, p, rest, hfirst, heq, hlen⟩ := exists_sequence_of_decodable hbad
        obtain ⟨pieces, hpieces, hrest⟩ := ih rest.length (by rw [← hn, List.length_cons]; omega) rest rfl
        refine ⟨(first, p) :: pieces, areSequences_cons.2 ⟨hfirst, hpieces⟩, ?_⟩
        simpa [heq] using hrest

/-! ## U8DEC -/

theorem exec_u8dec_of_whole {c : Ctl} {s : State} {bs : List Byte} {out : List CodePoint} (hb : s.bin = .holds bs)
    (h : u8Decode bs = (out, true)) : exec (.u8dec c) s = .next { s with tout := out, status := 0 } := by
  change execU8dec c s = _
  simp only [execU8dec, bytesOperand_of_holds hb, h]
  rfl

theorem exec_u8dec_of_cut {c : Ctl} {s : State} {bs : List Byte} {out : List CodePoint} (hb : s.bin = .holds bs)
    (h : u8Decode bs = (out, false)) :
    exec (.u8dec c) s =
      .next { s with tout := out ++ Config.drawTail s.draws, status := 0, draws := s.draws + 1 } := by
  change execU8dec c s = _
  simp only [execU8dec, bytesOperand_of_holds hb, h]
  rfl

/-- Settles O35: the loop takes the sequences one by one, and every input splits into sequences and perhaps an undecodable rest. -/
theorem u8decDecodesEveryByteList : Obligations.U8decDecodesEveryByteList := by
  intro c s bs hb
  refine ⟨fun pieces hpieces => ⟨?_, ?_⟩, exists_sequences bs⟩
  · rintro rfl
    exact exec_u8dec_of_whole hb (u8Decode_sequences hpieces)
  · rintro rest hrest rfl
    exact ⟨_, exec_u8dec_of_cut hb (u8Decode_of_undecodable hpieces hrest)⟩

/-! ## Round trip (R115) -/

/-- The bytes of a code point are a sequence that stands for it. -/
theorem isSequence_u8EncodeOne (p : CodePoint) : IsSequence (u8EncodeOne p) p.toNat := by
  have hp : p.toNat < 2 ^ 31 := p.isLt
  have hcont (x : Nat) : (128 + x % 64) % 64 = x % 64 := by omega
  unfold IsSequence
  rw [map_toNat_u8EncodeOne]
  unfold utf8Bytes
  split_ifs
  · exact ⟨by omega, rfl⟩
  all_goals
    simp only [hcont]
    omega

theorem u8Decode_u8Encode (t : List CodePoint) : u8Decode (u8Encode t) = (t, true) := by
  have hpieces : AreSequences (t.map fun p => (u8EncodeOne p, p)) := by
    simp [AreSequences, isSequence_u8EncodeOne]
  simpa [u8Encode, List.flatMap_map, Function.comp_def] using u8Decode_sequences hpieces

/-- Settles O36: an encoding is made of whole sequences that stand for the code points; R115's two inputs are evaluated. -/
theorem utf8RoundTrip : Obligations.Utf8RoundTrip := by
  refine ⟨fun c d s text ht => ?_, fun c d s hb => ?_⟩
  · exact ⟨_, exec_u8enc_of_eq ht rfl, rfl, exec_u8dec_of_whole rfl (u8Decode_u8Encode text)⟩
  · have henc : u8Encode [0] = [0x00] := by decide
    have hoverlong : u8Decode [0xC0, 0x80] = ([0], true) := by decide
    have hstray : u8Decode [0x80, 0x80] = ([0], true) := by decide
    rcases hb with hb | hb
    · exact ⟨_, exec_u8dec_of_whole hb hoverlong, rfl, exec_u8enc_of_eq rfl henc⟩
    · exact ⟨_, exec_u8dec_of_whole hb hstray, rfl, exec_u8enc_of_eq rfl henc⟩

end Sys2Proof.Machine
end

section
/-! Two's complement (44_integer R132, R135): TwosComplementConversions, IntegerRoundTrip. Both rest on one fact: the read adjustment
and the stored pattern keep a number's residue modulo `2^bits`, and each of the two ranges holds every residue once. -/

namespace Sys2Proof.Machine

/-! ## The range of a type (R130) -/

theorem two_pow_bits (ty : IntType) : (2 : ℤ) ^ ty.bits = 2 * 2 ^ (ty.bits - 1) := by cases ty <;> decide

theorem min_eq (ty : IntType) : ty.min = if ty.signed = true then -2 ^ (ty.bits - 1) else 0 := by cases ty <;> decide

theorem max_eq (ty : IntType) : ty.max = ty.min + (2 ^ ty.bits - 1) := by cases ty <;> decide

theorem min_of_signed {ty : IntType} (h : ty.signed = true) : ty.min = -2 ^ (ty.bits - 1) := by rw [min_eq, if_pos h]

theorem min_of_unsigned {ty : IntType} (h : ty.signed = false) : ty.min = 0 := by
  rw [min_eq, h, if_neg Bool.false_ne_true]

/-! ## The two conversions (R132) -/

/-- The read adjustment keeps the residue modulo `2^bits`. -/
theorem ofPattern_modEq (ty : IntType) (u : Nat) : ty.ofPattern u ≡ u [ZMOD 2 ^ ty.bits] := by
  unfold IntType.ofPattern
  split
  · exact Int.sub_modulus_modEq_iff.2 rfl
  · rfl

theorem ofPattern_mem_range (ty : IntType) {u : Nat} (hu : u < 2 ^ ty.bits) :
    ty.min ≤ ty.ofPattern u ∧ ty.ofPattern u ≤ ty.max := by
  have hu' : (u : ℤ) < 2 ^ ty.bits := by exact_mod_cast hu
  rw [max_eq]
  cases hs : ty.signed with
  | false =>
    rw [ofPattern_of_unsigned hs, min_of_unsigned hs]
    omega
  | true =>
    have hhalf : ((2 ^ (ty.bits - 1) : ℕ) : ℤ) = 2 ^ (ty.bits - 1) := by push_cast; rfl
    have hwidth := two_pow_bits ty
    rw [ofPattern_of_signed hs, min_of_signed hs, signedValue]
    split <;> omega

theorem toPattern_lt {ty : IntType} {x : ℤ} (hlo : ty.min ≤ x) (hhi : x ≤ ty.max) : ty.toPattern x < 2 ^ ty.bits := by
  have h : (ty.toPattern x : ℤ) < 2 ^ ty.bits := by
    rw [toPattern_eq_emod hlo hhi]
    exact Int.emod_lt_of_pos x (by positivity)
  exact_mod_cast h

theorem toPattern_ofPattern (ty : IntType) {u : Nat} (hu : u < 2 ^ ty.bits) : ty.toPattern (ty.ofPattern u) = u := by
  obtain ⟨hlo, hhi⟩ := ofPattern_mem_range ty hu
  have hu' : (u : ℤ) < 2 ^ ty.bits := by exact_mod_cast hu
  have h : (ty.toPattern (ty.ofPattern u) : ℤ) = u := by
    rw [toPattern_eq_emod hlo hhi, ofPattern_modEq ty u, Int.emod_eq_of_lt (Int.natCast_nonneg u) hu']
  exact_mod_cast h

/-- Two numbers of the range with the same residue modulo `2^bits` are one. -/
theorem eq_of_modEq_of_mem_range {ty : IntType} {x y : ℤ} (h : x ≡ y [ZMOD 2 ^ ty.bits]) (hx : ty.min ≤ x ∧ x ≤ ty.max)
    (hy : ty.min ≤ y ∧ y ≤ ty.max) : x = y := by
  have hwidth := max_eq ty
  have hdist : |y - x| < 2 ^ ty.bits := abs_lt.2 ⟨by omega, by omega⟩
  exact (sub_eq_zero.1 (Int.eq_zero_of_abs_lt_dvd h.dvd hdist)).symm

theorem ofPattern_toPattern {ty : IntType} {x : ℤ} (hlo : ty.min ≤ x) (hhi : x ≤ ty.max) :
    ty.ofPattern (ty.toPattern x) = x := by
  refine eq_of_modEq_of_mem_range ?_ (ofPattern_mem_range ty (toPattern_lt hlo hhi)) ⟨hlo, hhi⟩
  calc ty.ofPattern (ty.toPattern x) ≡ (ty.toPattern x : ℤ) [ZMOD 2 ^ ty.bits] := ofPattern_modEq ty _
    _ = x % 2 ^ ty.bits := toPattern_eq_emod hlo hhi
    _ ≡ x [ZMOD 2 ^ ty.bits] := Int.mod_modEq x _

/-- The stored pattern as R132 writes it. -/
theorem toPattern_cast {ty : IntType} {x : ℤ} (hlo : ty.min ≤ x) : (ty.toPattern x : ℤ) = if x < 0 then 2 ^ ty.bits + x else x := by
  obtain ⟨hmin, _⟩ := min_max_bounds ty
  unfold IntType.toPattern
  split <;> exact Int.toNat_of_nonneg (by omega)

/-- Settles O21: both conversions keep the residue modulo `2^bits`, and a residue has one number in each of the two ranges. -/
theorem twosComplementConversions : Obligations.TwosComplementConversions := by
  refine fun ty => ⟨fun u hu => ?_, fun x hlo hhi => ⟨toPattern_cast hlo, toPattern_lt hlo hhi, ofPattern_toPattern hlo hhi⟩⟩
  obtain ⟨hlo, hhi⟩ := ofPattern_mem_range ty hu
  refine ⟨?_, hlo, hhi, toPattern_ofPattern ty hu⟩
  split
  case isTrue hs => exact ofPattern_of_signed hs u
  case isFalse hs => exact ofPattern_of_unsigned (Bool.eq_false_of_not_eq_true hs) u

/-! ## Round trip (R135) -/

theorem leVal_leBytes (n x : Nat) : leVal (leBytes n x) = x % 256 ^ n := by
  induction n generalizing x with
  | zero => rw [leBytes, leVal, pow_zero, Nat.mod_one]
  | succ n ih => rw [leBytes, leVal, ih, BitVec.toNat_ofNat, pow_succ' 256, Nat.mod_mul, show 2 ^ 8 = 256 from rfl]

/-- A read in the byte order of the write sees the pattern written. -/
theorem val_bytes (e : Endian) {n x : Nat} (hx : x < 256 ^ n) : e.val (e.bytes n x) = x := by
  cases e with
  | little => rw [Endian.val, Endian.bytes, leVal_leBytes, Nat.mod_eq_of_lt hx]
  | big => rw [Endian.val, Endian.bytes, beVal, List.reverse_reverse, leVal_leBytes, Nat.mod_eq_of_lt hx]

/-- A write of one integer type, then a read of a type of the same width in the same byte order: the read ends with its own
conversion of the pattern that the write stores. -/
theorem writeThenRead_of_conversion {w r : Ctl → Instr} {tw tr : IntType} (e : Endian) {f : ℤ → ℤ}
    (hw : ∀ c s, exec (w c) s = writeInt tw e c s) (hr : ∀ c s, exec (r c) s = readInt tr e c s) (hbytes : tr.bytes = tw.bytes)
    (hf : ∀ x, tw.min ≤ x → x ≤ tw.max → tr.ofPattern (tw.toPattern x) = f x) :
    WriteThenRead w r tw.bytes tw.min tw.max f := by
  intro c d s o b x hwf _ hcov hcvv _ hdov ho hb hl ⟨hfin, hv, _⟩ hlo hhi
  have hlt : tw.toPattern x < 256 ^ tw.bytes := (toPattern_lt hlo hhi).trans_eq (pow_mul 2 8 tw.bytes)
  obtain ⟨hback, _⟩ := memoryReadsTheLatestWrite s.buf o (e.bytes tw.bytes (tw.toPattern x)) hwf
  rw [Endian.length_bytes] at hback
  refine ⟨_, _, (hw c s).trans (writeInt_good hcov hcvv ho hb hl (judgeInt_ok hfin hv hlo hhi)), rfl,
    (hr d _).trans (readInt_good hdov ho (hbytes ▸ hl)), rfl, ?_⟩
  rw [← val_memRead, State.memRead, hbytes]
  dsimp only
  rw [hback, val_bytes e hlt, ← hf x hlo hhi]
  exact isBits64_bits64Int (natAbs_ofPattern_le tr (hbytes ▸ hlt))

/-- A pattern stored by a signed type, read by the unsigned type of its width. -/
theorem ofPattern_unsigned_toPattern {tw tr : IntType} (hr : tr.signed = false) {x : ℤ} (hlo : tw.min ≤ x) (hhi : x ≤ tw.max) :
    tr.ofPattern (tw.toPattern x) = x % 2 ^ tw.bits := by
  rw [ofPattern_of_unsigned hr, toPattern_eq_emod hlo hhi]

/-- A pattern stored by an unsigned type, read by the signed type of its width. -/
theorem ofPattern_signed_toPattern {tw tr : IntType} (hw : tw.signed = false) (hr : tr.signed = true) {x : ℤ} (hlo : tw.min ≤ x) :
    tr.ofPattern (tw.toPattern x) = signedValue tr.bits x.toNat := by
  have hmin := min_of_unsigned hw
  rw [ofPattern_of_signed hr, IntType.toPattern, if_neg (by omega)]

theorem writeThenRead_same {w r : Ctl → Instr} (ty : IntType) (e : Endian) (hw : ∀ c s, exec (w c) s = writeInt ty e c s)
    (hr : ∀ c s, exec (r c) s = readInt ty e c s) : WriteThenRead w r ty.bytes ty.min ty.max id :=
  writeThenRead_of_conversion e hw hr rfl fun _ => ofPattern_toPattern

theorem writeThenRead_unsigned {w r : Ctl → Instr} (tw tr : IntType) (e : Endian) (hw : ∀ c s, exec (w c) s = writeInt tw e c s)
    (hr : ∀ c s, exec (r c) s = readInt tr e c s) (hbytes : tr.bytes = tw.bytes) (hs : tr.signed = false) :
    WriteThenRead w r tw.bytes tw.min tw.max (· % 2 ^ tw.bits) :=
  writeThenRead_of_conversion e hw hr hbytes fun _ => ofPattern_unsigned_toPattern hs

theorem writeThenRead_signed {w r : Ctl → Instr} (tw tr : IntType) (e : Endian) (hw : ∀ c s, exec (w c) s = writeInt tw e c s)
    (hr : ∀ c s, exec (r c) s = readInt tr e c s) (hbytes : tr.bytes = tw.bytes) (hsw : tw.signed = false)
    (hsr : tr.signed = true) : WriteThenRead w r tw.bytes tw.min tw.max (fun x => signedValue tr.bits x.toNat) :=
  writeThenRead_of_conversion e hw hr hbytes fun _ hlo _ => ofPattern_signed_toPattern hsw hsr hlo

/-- Settles O46: the read sees the stored pattern, and its type's conversion of R132 gives the number. -/
theorem integerRoundTrip : Obligations.IntegerRoundTrip := by
  refine ⟨⟨?_, ?_, ?_, ?_, ?_, ?_, ?_, ?_, ?_, ?_⟩, ?_, ?_, ?_, ?_, ?_, ?_, ?_, ?_, ?_, ?_⟩
  · exact writeThenRead_same .u8 .little (fun _ _ => rfl) fun _ _ => rfl
  · exact writeThenRead_same .i8 .little (fun _ _ => rfl) fun _ _ => rfl
  · exact writeThenRead_same .u16 .little (fun _ _ => rfl) fun _ _ => rfl
  · exact writeThenRead_same .u16 .big (fun _ _ => rfl) fun _ _ => rfl
  · exact writeThenRead_same .i16 .little (fun _ _ => rfl) fun _ _ => rfl
  · exact writeThenRead_same .i16 .big (fun _ _ => rfl) fun _ _ => rfl
  · exact writeThenRead_same .u32 .little (fun _ _ => rfl) fun _ _ => rfl
  · exact writeThenRead_same .u32 .big (fun _ _ => rfl) fun _ _ => rfl
  · exact writeThenRead_same .i32 .little (fun _ _ => rfl) fun _ _ => rfl
  · exact writeThenRead_same .i32 .big (fun _ _ => rfl) fun _ _ => rfl
  · exact writeThenRead_unsigned .i8 .u8 .little (fun _ _ => rfl) (fun _ _ => rfl) rfl rfl
  · exact writeThenRead_unsigned .i16 .u16 .little (fun _ _ => rfl) (fun _ _ => rfl) rfl rfl
  · exact writeThenRead_unsigned .i16 .u16 .big (fun _ _ => rfl) (fun _ _ => rfl) rfl rfl
  · exact writeThenRead_unsigned .i32 .u32 .little (fun _ _ => rfl) (fun _ _ => rfl) rfl rfl
  · exact writeThenRead_unsigned .i32 .u32 .big (fun _ _ => rfl) (fun _ _ => rfl) rfl rfl
  · exact writeThenRead_signed .u8 .i8 .little (fun _ _ => rfl) (fun _ _ => rfl) rfl rfl rfl
  · exact writeThenRead_signed .u16 .i16 .little (fun _ _ => rfl) (fun _ _ => rfl) rfl rfl rfl
  · exact writeThenRead_signed .u16 .i16 .big (fun _ _ => rfl) (fun _ _ => rfl) rfl rfl rfl
  · exact writeThenRead_signed .u32 .i32 .little (fun _ _ => rfl) (fun _ _ => rfl) rfl rfl rfl
  · exact writeThenRead_signed .u32 .i32 .big (fun _ _ => rfl) (fun _ _ => rfl) rfl rfl rfl

end Sys2Proof.Machine
end

section
/-! Numeric commands whose operands are bad (44_integer R133, R134; 45_float R176, R177; 60_exceptions R214): ReadsAtABadOffset,
CheckedWritesRefuseBadOperands, CheckedIntegerWritesRefuseBadValues, UncheckedWritesOfABadValueStoreDrawnBytes,
UncheckedWritesAtABadOffsetAreUndefined. -/

namespace Sys2Proof.Machine

/-! ## A check that ends the command -/

theorem exec_of_readCheck_error {i : Instr} {n : Nat} {s : State} {r : Result} (hi : ReadsAs i n)
    (h : readCheck n i.ctl s = .error r) : exec i s = r := by
  cases hi with
  | int ty e hexec => rw [hexec, readInt, h]
  | single e hexec => rw [hexec, readF32, h]
  | double e hexec => rw [hexec, readF64, h]

/-- The end of a write whose check fails whatever its type's judgement of the value. -/
theorem exec_of_writeCheck_error {i : Instr} {n : Nat} {s : State} {r : Result} (hi : WritesAs i n)
    (h : ∀ {α : Type} (judge : Bits64 → Except ErrorKind α), writeCheck n judge i.ctl s = .error r) : exec i s = r := by
  cases hi with
  | int ty e hexec => rw [hexec, writeInt, writeCheckInt, h]
  | single e hexec => rw [hexec, writeF32, writeCheckFloat, h]
  | double e hexec => rw [hexec, writeF64, writeCheckFloat, h]

/-- An integer write at a good offset whose value is refused. -/
theorem writeInt_of_judgeInt_error {ty : IntType} {e : Endian} {c : Ctl} {s : State} {o : Nat} {b : Bits64} {err : ErrorKind}
    (hov : c.ov = true) (hvv : c.vv = true) (ho : s.off = .holds o) (hb : s.val = .holds b) (hl : o + ty.bytes ≤ s.len)
    (h : judgeInt ty.min ty.max b = .error err) :
    writeInt ty e c s = .next (if c.a then s.raise .none err else s.drawnBytes o ty.bytes) := by
  rw [writeInt, writeCheckInt, writeCheck_good hov hvv ho hb hl, h]

/-! ## Reads at a bad offset (R133, R177) -/

theorem readCheck_offset_absent {c : Ctl} (hov : c.ov = false) (n : Nat) (s : State) :
    readCheck n c s = .error (.next (if c.a then s.raise .none .typeError else s.drawnResult)) := by
  simp only [readCheck, offsetOperand, hov, readIf_false]

theorem readCheck_out_of_bounds {n : Nat} {c : Ctl} {s : State} {o : Nat} (hov : c.ov = true) (ho : s.off = .holds o)
    (hl : s.len < o + n) :
    readCheck n c s = .error (.next (if c.a then s.raise .none .rangeError else s.drawnResult)) := by
  simp only [readCheck, offsetOperand, hov, ho, readIf_holds, if_neg (not_le.2 hl)]

/-- Settles O39: either fault of the offset ends every numeric read in its check. -/
theorem readsAtABadOffset : Obligations.ReadsAtABadOffset := fun _ _ _ hi =>
  ⟨fun hov => exec_of_readCheck_error (readsAs_of_class hi) (readCheck_offset_absent hov _ _),
    fun _ hov ho hl => exec_of_readCheck_error (readsAs_of_class hi) (readCheck_out_of_bounds hov ho hl)⟩

/-! ## Writes with a missing operand or an offset out of bounds (R134, R176) -/

theorem OperandsWritten.off_ne_noValue {i : Instr} {n : Nat} {s : State} (h : OperandsWritten i s)
    (hi : commandClass i = .numericWrite n) (hov : i.ctl.ov = true) : s.off ≠ .noValue :=
  h .off (by simp [readsOperand, hi, hov])

theorem OperandsWritten.val_ne_noValue {i : Instr} {n : Nat} {s : State} (h : OperandsWritten i s)
    (hi : commandClass i = .numericWrite n) (hvv : i.ctl.vv = true) : s.val ≠ .noValue :=
  h .val (by simp [readsOperand, hi, hvv])

section
variable {α : Type} {n : Nat} {judge : Bits64 → Except ErrorKind α} {c : Ctl} {s : State}

theorem writeCheck_offset_absent (hov : c.ov = false) (hval : c.vv = true → s.val ≠ .noValue) :
    writeCheck n judge c s =
      .error (if c.a then .next (s.raise .none .typeError) else s.undefinedOutcome .offsetAbsent) := by
  rw [writeCheck_bad (by simp [hov]) hval (.inl hov), if_pos hov]

theorem writeCheck_value_absent {o : Nat} (hov : c.ov = true) (hvv : c.vv = false) (ho : s.off = .holds o) :
    writeCheck n judge c s =
      .error (if c.a then .next (s.raise .none .typeError)
        else if o + n ≤ s.len then .next (s.drawnBytes o n) else s.undefinedOutcome .offsetOutOfBounds) := by
  rw [writeCheck_bad (by simp [ho]) (by simp [hvv]) (.inr (.inl hvv))]
  simp [hov, hvv, ho]

theorem writeCheck_out_of_bounds {o : Nat} (hov : c.ov = true) (ho : s.off = .holds o) (hl : s.len < o + n)
    (hval : c.vv = true → s.val ≠ .noValue) :
    writeCheck n judge c s =
      .error (if c.a then .next (s.raise .none (if c.vv then .rangeError else .typeError))
        else s.undefinedOutcome .offsetOutOfBounds) := by
  rw [writeCheck_bad (by simp [ho]) hval (.inr (.inr ⟨o, ho, hl⟩))]
  simp [hov, ho, not_le.2 hl]

end

theorem OperandReg.exists_holds {α : Type} {r : OperandReg α} (h : r ≠ .noValue) : ∃ v, r = .holds v := by
  cases r with
  | noValue => exact absurd rfl h
  | holds v => exact ⟨v, rfl⟩

/-- Settles O42: an absent operand is found before the bounds are looked at. -/
theorem checkedWritesRefuseBadOperands : Obligations.CheckedWritesRefuseBadOperands := by
  intro i n s hi ha hwritten
  have hval := hwritten.val_ne_noValue hi
  have hw := writesAs_of_class hi
  refine ⟨fun habsent => ?_, fun o hov hvv ho hl => ?_⟩
  · cases hov : i.ctl.ov with
    | false => exact exec_of_writeCheck_error hw fun _ => by rw [writeCheck_offset_absent hov hval, if_pos ha]; rfl
    | true =>
      have hvv : i.ctl.vv = false := habsent.resolve_left (by simp [hov])
      obtain ⟨o, ho⟩ := OperandReg.exists_holds (hwritten.off_ne_noValue hi hov)
      exact exec_of_writeCheck_error hw fun _ => by rw [writeCheck_value_absent hov hvv ho, if_pos ha]; rfl
  · exact exec_of_writeCheck_error hw fun _ => by rw [writeCheck_out_of_bounds hov ho hl hval, if_pos ha, if_pos hvv]; rfl

/-- Settles O45: with A = 0 both faults of the offset are R214's case 1. -/
theorem uncheckedWritesAtABadOffsetAreUndefined : Obligations.UncheckedWritesAtABadOffsetAreUndefined := by
  intro i n s hi ha hwritten
  have hval := hwritten.val_ne_noValue hi
  have hw := writesAs_of_class hi
  have ha' : ¬ i.ctl.a = true := by simp [ha]
  exact ⟨fun hov => exec_of_writeCheck_error hw fun _ => by rw [writeCheck_offset_absent hov hval, if_neg ha']; rfl,
    fun o hov ho hl => exec_of_writeCheck_error hw fun _ => by rw [writeCheck_out_of_bounds hov ho hl hval, if_neg ha']; rfl⟩

/-! ## Integer writes of a bad value (R134) -/

theorem value64_eq_div {b : Bits64} {neg : Bool} {units : Nat} (h : f64 b = .fin neg units) :
    value64 b = signedUnits neg units / oneUnits := by
  rw [value64_of_f64 h, signFactor_mul, oneUnits_cast, div_eq_mul_inv]

/-- The value check of a finite number, over its units. -/
theorem judgeInt_of_fin {min max : ℤ} {b : Bits64} {neg : Bool} {units : Nat} (h : f64 b = .fin neg units) :
    judgeInt min max b =
      if signedUnits neg units < min * oneUnits ∨ signedUnits neg units > max * oneUnits then .error .rangeError
      else if units % oneUnits ≠ 0 then .error .fractionalValueError
      else .ok (signedUnits neg (units / oneUnits)) := by
  rw [judgeInt, h]
  rfl

/-- The comparison of the value check is that of the numbers. -/
theorem value64_lt_intCast_iff {b : Bits64} {neg : Bool} {units : Nat} (h : f64 b = .fin neg units) (x : ℤ) :
    value64 b < x ↔ signedUnits neg units < x * oneUnits := by
  rw [value64_eq_div h, div_lt_iff₀ (Nat.cast_pos.2 oneUnits_pos)]
  exact_mod_cast Iff.rfl

theorem intCast_lt_value64_iff {b : Bits64} {neg : Bool} {units : Nat} (h : f64 b = .fin neg units) (x : ℤ) :
    x < value64 b ↔ x * oneUnits < signedUnits neg units := by
  rw [value64_eq_div h, lt_div_iff₀ (Nat.cast_pos.2 oneUnits_pos)]
  exact_mod_cast Iff.rfl

theorem signedUnits_mul (neg : Bool) (k m : Nat) : signedUnits neg (k * m) = signedUnits neg k * m := by
  cases neg <;> simp [signedUnits]

/-- A number of whole ones is an integer. -/
theorem exists_value64_eq_intCast {b : Bits64} {neg : Bool} {units : Nat} (h : f64 b = .fin neg units)
    (hmod : units % oneUnits = 0) : ∃ x : ℤ, value64 b = x := by
  have hdiv : units / oneUnits * oneUnits = units := Nat.div_mul_cancel (Nat.dvd_of_mod_eq_zero hmod)
  have hne : (oneUnits : ℚ) ≠ 0 := Nat.cast_ne_zero.2 oneUnits_pos.ne'
  refine ⟨signedUnits neg (units / oneUnits), ?_⟩
  rw [value64_eq_div h, div_eq_iff hne]
  conv_lhs => rw [← hdiv]
  exact_mod_cast signedUnits_mul neg (units / oneUnits) oneUnits

/-- NaN, the infinities and every number outside the range are RangeError. -/
theorem judgeInt_rangeError {min max : ℤ} {b : Bits64} (h : ¬ finite64 b ∨ value64 b < min ∨ value64 b > max) :
    judgeInt min max b = .error .rangeError := by
  cases hf : f64 b with
  | nan => rw [judgeInt, hf]
  | inf neg => rw [judgeInt, hf]
  | fin neg units =>
    have hout := h.resolve_left (not_not.2 (finite64_of_f64 hf))
    rw [gt_iff_lt, value64_lt_intCast_iff hf, intCast_lt_value64_iff hf] at hout
    rw [judgeInt_of_fin hf, if_pos hout]

/-- A number of the range that is no integer is FractionalValueError. -/
theorem judgeInt_fractionalValueError {min max : ℤ} {b : Bits64} (hfin : finite64 b) (hlo : min ≤ value64 b)
    (hhi : value64 b ≤ max) (hfrac : ∀ x : ℤ, value64 b ≠ x) : judgeInt min max b = .error .fractionalValueError := by
  obtain ⟨neg, units, hf⟩ := exists_f64_of_finite hfin
  rw [← not_lt, value64_lt_intCast_iff hf] at hlo
  rw [← not_lt, intCast_lt_value64_iff hf] at hhi
  have hmod : units % oneUnits ≠ 0 := fun h => by
    obtain ⟨x, hx⟩ := exists_value64_eq_intCast hf h
    exact hfrac x hx
  rw [judgeInt_of_fin hf, if_neg (not_or.2 ⟨hlo, hhi⟩), if_pos hmod]

/-- A value that an integer write may not store is refused, one way or the other. -/
theorem exists_judgeInt_error {min max : ℤ} {b : Bits64}
    (h : ¬ finite64 b ∨ value64 b < min ∨ value64 b > max ∨ ∀ x : ℤ, value64 b ≠ x) :
    ∃ err, judgeInt min max b = .error err := by
  by_cases hout : ¬ finite64 b ∨ value64 b < min ∨ value64 b > max
  · exact ⟨_, judgeInt_rangeError hout⟩
  · simp only [not_or, not_not, not_lt, gt_iff_lt] at hout
    obtain ⟨hfin, hlo, hhi⟩ := hout
    have hfrac := ((h.resolve_left (not_not.2 hfin)).resolve_left (not_lt.2 hlo)).resolve_left (not_lt.2 hhi)
    exact ⟨_, judgeInt_fractionalValueError hfin hlo hhi hfrac⟩

/-- A command with an integer range is the write of the type with that range. -/
theorem exists_writeInt_of_range {i : Instr} {n : Nat} {lo hi : ℤ} (h : intWriteRange i = some (n, lo, hi)) :
    ∃ (ty : IntType) (e : Endian), n = ty.bytes ∧ lo = ty.min ∧ hi = ty.max ∧ ∀ s, exec i s = writeInt ty e i.ctl s := by
  have hclass : commandClass i = .numericWrite n := by cases i <;> cases h <;> rfl
  cases writesAs_of_class hclass with
  | int ty e hexec hrange =>
    cases h.symm.trans hrange
    exact ⟨ty, e, rfl, rfl, rfl, hexec⟩
  | single e _ hrange => cases h.symm.trans hrange
  | double e _ hrange => cases h.symm.trans hrange

theorem exec_of_judgeInt_error {i : Instr} {n : Nat} {lo hi : ℤ} {s : State} {o : Nat} {b : Bits64} {err : ErrorKind}
    (hrange : intWriteRange i = some (n, lo, hi)) (hov : i.ctl.ov = true) (hvv : i.ctl.vv = true) (ho : s.off = .holds o)
    (hb : s.val = .holds b) (hl : o + n ≤ s.len) (h : judgeInt lo hi b = .error err) :
    exec i s = .next (if i.ctl.a then s.raise .none err else s.drawnBytes o n) := by
  obtain ⟨ty, e, rfl, rfl, rfl, hexec⟩ := exists_writeInt_of_range hrange
  rw [hexec, writeInt_of_judgeInt_error hov hvv ho hb hl h]

/-- Settles O43, by the judgement of the value. -/
theorem checkedIntegerWritesRefuseBadValues : Obligations.CheckedIntegerWritesRefuseBadValues := by
  intro i n lo hi s o b hrange ha hov hvv ho hb hl
  refine ⟨fun hbad => ?_, fun hfin hlo hhi hfrac => ?_⟩
  · rw [exec_of_judgeInt_error hrange hov hvv ho hb hl (judgeInt_rangeError hbad), if_pos ha]
    rfl
  · rw [exec_of_judgeInt_error hrange hov hvv ho hb hl (judgeInt_fractionalValueError hfin hlo hhi hfrac), if_pos ha]
    rfl

/-! ## Drawn bytes -/

theorem getElem?_drawnByteList {n j : Nat} (hj : j < n) (k : Nat) : (drawnByteList k n)[j]? = some (Config.drawByte k j) := by
  rw [drawnByteList, List.getElem?_map, List.getElem?_range hj, Option.map_some]

theorem writeBytes_drawnByteList {m : Memory} (h : m.wf = true) (k o n : Nat) :
    SameOutside m (m.writeBytes o (drawnByteList k n)) o n ∧
      ∀ j < n, (m.writeBytes o (drawnByteList k n)).read (o + j) = Config.drawByte k j := by
  obtain ⟨hread, hout⟩ := memoryReadsTheLatestWrite m o (drawnByteList k n) h
  rw [length_drawnByteList] at hread hout
  refine ⟨hout, fun j hj => ?_⟩
  have hbyte := getElem?_readBytes (m.writeBytes o (drawnByteList k n)) o hj
  rw [hread, getElem?_drawnByteList hj, Option.some_inj] at hbyte
  exact hbyte.symm

/-- What a command that ends in drawn bytes leaves. -/
theorem storesDrawn_of_exec {i : Instr} {s : State} {o n : Nat} (hwf : s.buf.wf = true)
    (h : exec i s = .next (s.drawnBytes o n)) :
    ∃ m, exec i s = .next { s with buf := m, status := 0, draws := s.draws + 1 } ∧ SameOutside s.buf m o n ∧
      ∀ j < n, m.read (o + j) = Config.drawByte s.draws j :=
  ⟨_, h.trans (congrArg _ (drawnBytes_eq s o n)), writeBytes_drawnByteList hwf s.draws o n⟩

/-- Settles O44: a missing value by the check, a bad one by its judgement; both end in drawn bytes. -/
theorem uncheckedWritesOfABadValueStoreDrawnBytes : Obligations.UncheckedWritesOfABadValueStoreDrawnBytes := by
  refine ⟨fun i n s o hi ha hov hvv ho hl hwf => storesDrawn_of_exec hwf ?_,
    fun i n lo hi s o b hrange ha hov hvv ho hb hl hbad hwf => storesDrawn_of_exec hwf ?_⟩
  · refine exec_of_writeCheck_error (writesAs_of_class hi) fun _ => ?_
    rw [writeCheck_value_absent hov hvv ho, if_neg (by simp [ha]), if_pos hl]
  · obtain ⟨err, herr⟩ := exists_judgeInt_error hbad
    rw [exec_of_judgeInt_error hrange hov hvv ho hb hl herr, if_neg (by simp [ha])]

end Sys2Proof.Machine
end

section
/-! Round-to-nearest and the drawn NaNs, over every fraction and every pattern (45_float R172 to R175): RoundNearestIsAsStated,
DrawnNaNsAreExactlyTheNaNs. -/

namespace Sys2Proof.Machine

/-! ## Round-to-nearest (R174) -/

/-- The rest `d` of R174, as the model's remainder. -/
theorem natCast_div_sub_floor (num : Nat) {den : Nat} (hden : 0 < den) :
    (num : ℚ) / den - ((num / den : ℕ) : ℤ) = (num % den : ℕ) / den := by
  have hne : (den : ℚ) ≠ 0 := Nat.cast_ne_zero.2 hden.ne'
  have hnum : (num : ℚ) = den * (num / den : ℕ) + (num % den : ℕ) := by exact_mod_cast (Nat.div_add_mod num den).symm
  rw [Int.cast_natCast, div_sub' hne, sub_eq_of_eq_add' hnum]

/-- `d > 1/2` over natural numbers. -/
theorem half_lt_div_iff (r : Nat) {den : Nat} (hden : 0 < den) : (1 / 2 : ℚ) < r / den ↔ den < 2 * r := by
  rw [div_lt_div_iff₀ two_pos (Nat.cast_pos.2 hden), one_mul, mul_comm]
  exact_mod_cast Iff.rfl

/-- `d < 1/2` over natural numbers. -/
theorem div_lt_half_iff (r : Nat) {den : Nat} (hden : 0 < den) : (r / den : ℚ) < 1 / 2 ↔ 2 * r < den := by
  rw [div_lt_div_iff₀ (Nat.cast_pos.2 hden) two_pos, one_mul, mul_comm]
  exact_mod_cast Iff.rfl

/-- The number `1 + 2^-24` of R174's example. -/
theorem f64_tieExample : f64 0x3FF0000010000000 = .fin false (oneUnits + 2 ^ 1050) := by decide +kernel

theorem f32PackFinite_tieExample (ties : Ties) :
    f32PackFinite ties false (oneUnits + 2 ^ 1050) = if ties = .away then 0x3F800001 else 0x3F800000 := by
  cases ties <;> decide +kernel

/-- Settles O24: the example by evaluation; the rest below, above or at a half by `roundNearest_cases`. -/
theorem roundNearestIsAsStated : Obligations.RoundNearestIsAsStated := by
  refine ⟨fun p nan => ?_, fun ties num den hden => ?_⟩
  · rw [f64_tieExample, f32Pack_finite p false (Nat.add_pos_left oneUnits_pos _).ne', f32PackFinite_tieExample]
  · dsimp only
    simp only [Rat.floor_natCast_div_natCast, ← Int.natCast_div, natCast_div_sub_floor num hden, gt_iff_lt,
      half_lt_div_iff _ hden, div_lt_half_iff _ hden]
    obtain ⟨hd, h⟩ | ⟨hd, h⟩ | ⟨hd, h⟩ := roundNearest_cases ties num den
    · rw [if_neg (by omega), if_pos hd, h]
    · rw [if_pos hd, h, Nat.cast_add_one]
    · rw [if_neg (by omega), if_neg (by omega)]
      split at h
      case isTrue haway => rw [if_pos haway, h, Nat.cast_add_one]
      case isFalse heven =>
        obtain ⟨heven', h⟩ := h
        rw [if_neg heven]
        split <;> omega

/-! ## The drawn NaNs (R172, R173, R175; log 6) -/

theorem pack64_fields (b : Bits64) : pack64 (sign64 b) (exp64 b) (frac64 b) = b :=
  BitVec.eq_of_toNat_eq ((toNat_pack64 _ (exp64_lt b) (frac64_lt b)).trans (toNat_eq_fields64 b).symm)

theorem nan64Of_of_nan {b : Bits64} (h : nanPattern64 b) : nan64Of b = b := by
  rw [nanPattern64, bitField_exp64, bitField_frac64] at h
  obtain ⟨hexp, hfrac⟩ := h
  rw [nan64Of, if_neg hfrac, ← hexp, pack64_fields]

theorem nan32Of_of_nan {p : Bits32} (h : nanPattern32 p) : nan32Of p = p := by
  rw [nanPattern32, bitField_exp32, bitField_frac32] at h
  obtain ⟨hexp, hfrac⟩ := h
  rw [nan32Of, if_neg hfrac, ← hexp, pack32_fields]

/-- Settles O25: a drawn pattern is given a NaN's fields, which a NaN has already. -/
theorem drawnNaNsAreExactlyTheNaNs : Obligations.DrawnNaNsAreExactlyTheNaNs :=
  ⟨nanPattern64_nan64Of, fun _ => nan64Of_of_nan, nanPattern32_nan32Of, fun _ => nan32Of_of_nan⟩

end Sys2Proof.Machine
end

section
/-! Single-precision writes of a finite value beyond MAXF32 (45_float R170, R176): SingleWritesBeyondTheRange. -/

namespace Sys2Proof.Machine

theorem abs_value64 {b : Bits64} {neg : Bool} {u : Nat} (h : f64 b = .fin neg u) : |value64 b| = u * 2 ^ (-1074 : ℤ) := by
  rw [value64_eq_signedUnits h, abs_mul, abs_of_pos unit_pos, ← Int.cast_abs, abs_signedUnits, Int.cast_natCast]

/-- The value check of R176 refuses what is beyond MAXF32. -/
theorem judgeFloat_of_maxF32_lt {b : Bits64} (hfin : finite64 b) (hmax : maxF32 < |value64 b|) :
    judgeFloat maxF32Units b = .error .rangeError := by
  obtain ⟨neg, u, hf⟩ := exists_f64_of_finite hfin
  rw [abs_value64 hf, maxF32_eq_units, mul_lt_mul_iff_left₀ unit_pos, Nat.cast_lt] at hmax
  rw [judgeFloat, hf]
  exact if_pos hmax

/-- A single-precision write at a good offset whose value is refused. -/
theorem writeF32_of_judgeFloat_error {e : Endian} {c : Ctl} {s : State} {o : Nat} {b : Bits64} {err : ErrorKind}
    (hov : c.ov = true) (hvv : c.vv = true) (ho : s.off = .holds o) (hb : s.val = .holds b) (hl : o + 4 ≤ s.len)
    (h : judgeFloat maxF32Units b = .error err) :
    writeF32 e c s = .next (if c.a then s.raise .none err else s.drawnBytes o 4) := by
  rw [writeF32, writeCheckFloat, writeCheck_good hov hvv ho hb hl, h]

/-- Settles O53: the judgement refuses the value, and the mode decides between the error and drawn bytes. -/
theorem singleWritesBeyondTheRange : Obligations.SingleWritesBeyondTheRange := by
  intro c s o b hov hvv ho hb hl hfin hmax hwf i hi
  obtain ⟨e, hexec⟩ : ∃ e, exec i s = writeF32 e c s := by
    obtain rfl | rfl := List.mem_pair.1 hi
    · exact ⟨.little, rfl⟩
    · exact ⟨.big, rfl⟩
  have hend := hexec.trans (writeF32_of_judgeFloat_error hov hvv ho hb hl (judgeFloat_of_maxF32_lt hfin hmax))
  refine ⟨fun ha => ?_, fun ha => storesDrawn_of_exec hwf ?_⟩
  · rw [hend, if_pos ha]
    rfl
  · rw [hend, if_neg (by simp [ha])]

end Sys2Proof.Machine
end

section
/-! A write, then a read of the stored pattern; the double-precision round trip (45_float R175, R179): DoubleRoundTrip. -/

namespace Sys2Proof.Machine

/-! ## A read of the pattern just stored -/

/-- The pattern of the bytes of `p`, least significant first. -/
theorem patternOf_little_bytes (n p : Nat) : patternOf false n (fun j => p / 256 ^ j % 256) = p % 256 ^ n := by
  induction n with
  | zero => simp [patternOf, Nat.mod_one]
  | succ n ih =>
    have hsum : patternOf false (n + 1) (fun j => p / 256 ^ j % 256) =
        patternOf false n (fun j => p / 256 ^ j % 256) + p / 256 ^ n % 256 * 256 ^ n := Finset.sum_range_succ _ n
    rw [hsum, ih, pow_succ, Nat.mod_mul, Nat.mul_comm (256 ^ n)]

theorem patternOf_congr {big : Bool} {n : Nat} {f g : Nat → Nat} (h : ∀ j < n, f j = g j) :
    patternOf big n f = patternOf big n g :=
  Finset.sum_congr rfl fun j hj => by rw [h j (Finset.mem_range.1 hj)]

/-- The bytes of a pattern, put together in their own order, are the pattern. -/
theorem patternOf_bytes (big : Bool) {n p : Nat} (hp : p < 256 ^ n) {byte : Nat → Nat}
    (h : ∀ j < n, byte j = p / 256 ^ bytePlace big n j % 256) : patternOf big n byte = p := by
  have hlittle : patternOf big n byte = patternOf false n (fun j => p / 256 ^ j % 256) := by
    cases big with
    | false => exact patternOf_congr h
    | true =>
      rw [patternOf_big]
      refine patternOf_congr fun j hj => ?_
      rw [h (n - 1 - j) (by omega), bytePlace, if_pos rfl, show n - 1 - (n - 1 - j) = j by omega]
  rw [hlittle, patternOf_little_bytes, Nat.mod_eq_of_lt hp]

/-- The command `w` and then the command `r` complete with STATUS 0, and leave a state as `post` says. -/
def CompletesWith (w r : Instr) (s : State) (post : State → Prop) : Prop :=
  ∃ t u, exec w s = .next t ∧ t.status = 0 ∧ exec r t = .next u ∧ u.status = 0 ∧ post u

theorem CompletesWith.mono {w r : Instr} {s : State} {post post' : State → Prop} (h : CompletesWith w r s post)
    (himp : ∀ u, post u → post' u) : CompletesWith w r s post' := by
  obtain ⟨t, u, hw, ht, hr, hu, hpost⟩ := h
  exact ⟨t, u, hw, ht, hr, hu, himp u hpost⟩

/-- A read at the offset of a write, of its width and in its byte order, makes its RESULT of the stored pattern. -/
theorem completesWith_of_storesPattern {w r : Instr} {s : State} {o n p k : Nat} (hr : ReadsAs r n)
    (hov : r.ctl.ov = true) (ho : s.off = .holds o) (hl : o + n ≤ s.len) (hp : p < 256 ^ n)
    (hw : StoresPattern w s o n (bigEndian r) p k) : CompletesWith w r s fun u => ReadsPatternAs r p u.result := by
  have ⟨m, hexec, _⟩ := hw
  obtain ⟨u, hread, hu, hsees⟩ := exec_read_sees hr (s := { s with buf := m, status := 0, draws := k }) hov ho hl
  rw [patternOf_bytes _ hp (byteAt_of_storesPattern hw hexec)] at hsees
  exact ⟨_, u, hexec, rfl, hread, hu, hsees⟩

/-! ## Double precision -/

theorem readsPatternAs_readF64_iff (d : Ctl) (p x : Bits64) :
    ReadsPatternAs (.readF64LE d) p.toNat x ↔ if nanPattern64 p then nanPattern64 x else x = p := by
  unfold ReadsPatternAs
  dsimp only
  rw [BitVec.ofNat_toNat, BitVec.setWidth_eq]

/-- The two commands of a double-precision round trip: the write in the byte order of the read, and what the read answers. -/
theorem doublePair_of_mem {c d : Ctl} {q : Instr × Instr}
    (hq : q ∈ [(Instr.writeF64LE c, Instr.readF64LE d), (Instr.writeF64BE c, Instr.readF64BE d)]) :
    (q.1, bigEndian q.2) ∈ [(Instr.writeF64LE c, false), (Instr.writeF64BE c, true)] ∧ ReadsAs q.2 8 ∧ q.2.ctl = d ∧
      ∀ u x, ReadsPatternAs q.2 u x ↔ ReadsPatternAs (.readF64LE d) u x := by
  obtain rfl | rfl := List.mem_pair.1 hq
  · exact ⟨.head _, readsAs_of_class rfl, rfl, fun _ _ => Iff.rfl⟩
  · exact ⟨.tail _ (.head _), readsAs_of_class rfl, rfl, fun _ _ => Iff.rfl⟩

/-- Settles O54: the read returns what O50 says is stored. -/
theorem doubleRoundTrip : Obligations.DoubleRoundTrip := by
  intro c d s o b hcov hcvv hdov ho hb hl hwf q hq
  obtain ⟨hqw, hr, hctl, hreads⟩ := doublePair_of_mem hq
  obtain ⟨hother, hzero, hnan⟩ := doubleWritesStoreThePattern c s o b hcov hcvv ho hb hl hwf _ hqw
  have hback {p : Bits64} {k : Nat} (hw : StoresPattern q.1 s o 8 (bigEndian q.2) p.toNat k) :=
    (completesWith_of_storesPattern hr (hctl ▸ hdov) ho hl p.isLt hw).mono fun u hu =>
      (readsPatternAs_readF64_iff d p u.result).1 ((hreads _ _).1 hu)
  by_cases hb64 : nanPattern64 b
  · obtain ⟨p, hp, hw⟩ := hnan hb64
    refine (hback hw).mono fun u hu => ?_
    rw [if_pos hp] at hu
    rwa [if_pos hb64]
  simp only [if_neg hb64]
  by_cases hz : b = 0x8000000000000000
  · have hw := hzero hz
    cases hmode : s.params.negZeroWrite with
    | keepSign =>
      rw [hmode, if_pos rfl] at hw
      refine (hback (p := 0x8000000000000000) hw).mono fun u hu => ?_
      rw [if_neg (by decide)] at hu
      rwa [if_neg (by simp), hz]
    | clearSign =>
      rw [hmode, if_neg nofun] at hw
      refine (hback (p := 0) hw).mono fun u hu => ?_
      rw [if_neg (by decide)] at hu
      rwa [if_pos ⟨hz, rfl⟩]
  · refine (hback (hother hb64 hz)).mono fun u hu => ?_
    rw [if_neg hb64] at hu
    rwa [if_neg fun h => hz h.1]

end Sys2Proof.Machine
end

section
/-! The single-precision round trip within half a unit in the last place (45_float R174, R179): SingleRoundTrip. -/

namespace Sys2Proof.Machine

/-! ## Rounding is within half a quantum, and keeps what multiples bound -/

theorem two_mul_abs_roundNearest_sub_le (ties : Ties) (num : Nat) {den : Nat} (hden : 0 < den) :
    2 * |((roundNearest ties num den * den : ℕ) : ℤ) - num| ≤ den := by
  obtain ⟨hfloor, _⟩ := roundNearest_beats_multiple ties num hden (Int.dvd_mul_right den (num / den : ℕ))
  obtain ⟨hceil, _⟩ := roundNearest_beats_multiple ties num hden (Int.dvd_mul_right den ((num / den : ℕ) + 1))
  have hnum : (num : ℤ) = den * (num / den : ℕ) + (num % den : ℕ) := by exact_mod_cast (Nat.div_add_mod num den).symm
  have hrest : num % den < den := Nat.mod_lt num hden
  rw [mul_add_one] at hceil
  simp only [abs_eq_max_neg] at hfloor hceil ⊢
  omega

theorem le_roundNearest {ties : Ties} {num den a : Nat} (hden : 0 < den) (h : a * den ≤ num) : a ≤ roundNearest ties num den :=
  ((Nat.le_div_iff_mul_le hden).2 h).trans (roundNearest_bounds ties num den).1

theorem roundNearest_le {ties : Ties} {num den b : Nat} (hden : 0 < den) (h : num ≤ b * den) : roundNearest ties num den ≤ b := by
  have hnear := two_mul_abs_roundNearest_sub_le ties num hden
  by_contra hlt
  have hmul := Nat.mul_le_mul_right den (Nat.succ_le_of_lt (not_le.1 hlt))
  rw [Nat.succ_mul] at hmul
  simp only [abs_eq_max_neg] at hnear
  omega

theorem two_pow_dvd_maxF32Units {k : Nat} (h : k ≤ 104 + 1074) : 2 ^ k ∣ maxF32Units := Dvd.dvd.mul_left (pow_dvd_pow 2 h) _

theorem quantumLog32_le {u : Nat} (hu : u ≠ 0) (hmax : u ≤ maxF32Units) : quantumLog32 u ≤ 104 + 1074 := by
  obtain ⟨_, _, hlo | hmin⟩ := quantumLog32_spec hu
  · have := lt_of_two_pow_le_maxF32Units (hlo.trans hmax)
    omega
  · exact hmin.trans_le (by decide)

/-- Some binary32 number of either sign lies within half a quantum. -/
theorem exists_units32_near (neg : Bool) {u : Nat} (hu : u ≠ 0) (hmax : u ≤ maxF32Units) :
    ∃ p, finite32 p ∧ sign32 p = neg ∧ 2 * |(units32 p : ℤ) - u| ≤ (2 ^ quantumLog32 u : ℕ) := by
  obtain ⟨hk, hhi, hbinade⟩ := quantumLog32_spec hu
  obtain ⟨top, htop⟩ := two_pow_dvd_maxF32Units (quantumLog32_le hu hmax)
  have hpos : 0 < 2 ^ quantumLog32 u := pow_pos two_pos _
  have hp := packsAs_rounded neg (n := roundNearest .away u (2 ^ quantumLog32 u)) hk
    (hbinade.imp_left fun hlo => le_roundNearest hpos (by rwa [← pow_add, Nat.add_comm]))
    (roundNearest_le hpos (by rw [← pow_add, Nat.add_comm]; exact hhi.le))
    (by
      rw [htop, Nat.mul_comm] at hmax ⊢
      exact Nat.mul_le_mul_left _ (roundNearest_le hpos hmax))
  refine ⟨_, hp.finite, hp.sign, ?_⟩
  rw [hp.units]
  exact two_mul_abs_roundNearest_sub_le .away u hpos

/-! ## Half a unit in the last place -/

/-- `y` is within half a binary32 unit in the last place of `v` (R179): half the quantum of the subnormal range, or of a binade at
or below `v`'s. -/
def WithinHalfUlp (v y : ℚ) : Prop :=
  |y - v| ≤ 2 ^ (-149 : ℤ) / 2 ∨ ∃ e : ℤ, -126 ≤ e ∧ 2 ^ e ≤ |v| ∧ |y - v| ≤ 2 ^ (e - 23) / 2

theorem two_pow_mul_unit (k : Nat) : ((2 ^ k : ℕ) : ℚ) * 2 ^ (-1074 : ℤ) = 2 ^ ((k : ℤ) - 1074) := by
  rw [Nat.cast_pow, Nat.cast_ofNat, ← zpow_natCast, ← zpow_add₀ two_ne_zero, sub_eq_add_neg]

/-- The nearest binary32 number is within half a unit in the last place. -/
theorem withinHalfUlp_of_nearest {b : Bits64} {p : Bits32} (hfin : finite64 b) (hne : value64 b ≠ 0) (hmax : |value64 b| ≤ maxF32)
    (hnear : ∀ p' : Bits32, finite32 p' → |value32 p - value64 b| ≤ |value32 p' - value64 b|) :
    WithinHalfUlp (value64 b) (value32 p) := by
  obtain ⟨neg, u, hf⟩ := exists_f64_of_finite hfin
  have hu : u ≠ 0 := by
    rintro rfl
    rw [value64_of_f64 hf, Nat.cast_zero, mul_zero, zero_mul] at hne
    exact hne rfl
  obtain ⟨p', hp', hsign, hhalf⟩ := exists_units32_near neg hu (units_le_maxF32Units hf hmax)
  have hdist : |value32 p - value64 b| ≤ 2 ^ ((quantumLog32 u : ℤ) - 1074) / 2 := by
    have hcast : ((|(units32 p' : ℤ) - u| : ℤ) : ℚ) ≤ (2 ^ quantumLog32 u : ℕ) / 2 := by
      rw [le_div_iff₀' two_pos]
      exact_mod_cast hhalf
    calc |value32 p - value64 b| ≤ |value32 p' - value64 b| := hnear p' hp'
      _ = (|(units32 p' : ℤ) - u| : ℤ) * 2 ^ (-1074 : ℤ) := by rw [abs_value32_sub_value64 hf p', hsign, Bool.xor_self]; rfl
      _ ≤ (2 ^ quantumLog32 u : ℕ) / 2 * 2 ^ (-1074 : ℤ) := mul_le_mul_of_nonneg_right hcast unit_pos.le
      _ = 2 ^ ((quantumLog32 u : ℤ) - 1074) / 2 := by rw [div_mul_eq_mul_div, two_pow_mul_unit]
  obtain ⟨hk, _, hlo | hmin⟩ := quantumLog32_spec hu
  · have hk : 925 ≤ quantumLog32 u := hk
    refine .inr ⟨((quantumLog32 u + 23 : ℕ) : ℤ) - 1074, by omega, ?_, ?_⟩
    · rw [abs_value64 hf, ← two_pow_mul_unit]
      exact mul_le_mul_of_nonneg_right (Nat.cast_le.2 hlo) unit_pos.le
    · rwa [show ((quantumLog32 u + 23 : ℕ) : ℤ) - 1074 - 23 = quantumLog32 u - 1074 by omega]
  · rw [hmin] at hdist
    exact .inl hdist

/-! ## What a single-precision write stores for a finite value -/

/-- Only one pattern is +0.0. -/
theorem eq_posZero_of_f64 {b : Bits64} (h : f64 b = .fin false 0) : b = 0 := by
  obtain ⟨_, hsign, hunits⟩ := (f64_eq_fin_iff b false 0).1 h
  split at hunits
  case isTrue hexp =>
    rw [← pack64_fields b, hsign, hexp, ← hunits]
    rfl
  case isFalse => exact absurd hunits.symm (Nat.mul_ne_zero (by omega) (Nat.two_pow_pos _).ne')

theorem eq_zero_of_value64 {b : Bits64} (hfin : finite64 b) (h : value64 b = 0) : b = 0 ∨ b = 0x8000000000000000 := by
  obtain ⟨neg, u, hf⟩ := exists_f64_of_finite hfin
  have hu : (u : ℚ) * 2 ^ (-1074 : ℤ) = 0 := by rw [← abs_value64 hf, h, abs_zero]
  obtain rfl : u = 0 := Nat.cast_eq_zero.1 ((mul_eq_zero_iff_right unit_pos.ne').1 hu)
  cases neg
  · exact .inl (eq_posZero_of_f64 hf)
  · exact .inr (eq_negZero_of_f64 hf)

theorem withinHalfUlp_self (v : ℚ) : WithinHalfUlp v v := .inl (by rw [sub_self, abs_zero]; positivity)

theorem value32_posZero : value32 0 = 0 := by simp [value32, bitField]

theorem value32_negZero : value32 0x80000000 = 0 := by simp [value32, bitField]

/-- Zero by O51, any other finite value by O52. -/
theorem exists_storesPattern_writeF32_finite {c : Ctl} {s : State} {o : Nat} {b : Bits64} {q : Instr × Bool}
    (hov : c.ov = true) (hvv : c.vv = true) (ho : s.off = .holds o) (hb : s.val = .holds b) (hl : o + 4 ≤ s.len)
    (hwf : s.buf.wf = true) (hfin : finite64 b) (hmax : |value64 b| ≤ maxF32)
    (hq : q ∈ [(Instr.writeF32LE c, false), (Instr.writeF32BE c, true)]) :
    ∃ p : Bits32, StoresPattern q.1 s o 4 q.2 p.toNat s.draws ∧ finite32 p ∧ WithinHalfUlp (value64 b) (value32 p) := by
  by_cases hzero : value64 b = 0
  · obtain ⟨hpos, hneg, _⟩ := singleWritesOfSpecialValues c s o b hov hvv ho hb hl hwf q hq
    rw [hzero]
    have hposStored (h : StoresPattern q.1 s o 4 q.2 0 s.draws) :
        ∃ p : Bits32, StoresPattern q.1 s o 4 q.2 p.toNat s.draws ∧ finite32 p ∧ WithinHalfUlp 0 (value32 p) :=
      ⟨0, h, by decide, value32_posZero ▸ withinHalfUlp_self 0⟩
    obtain hb0 | hb0 := eq_zero_of_value64 hfin hzero
    · exact hposStored (hpos hb0)
    · have hw := hneg hb0
      split at hw
      case isTrue => exact ⟨0x80000000, hw, by decide, value32_negZero ▸ withinHalfUlp_self 0⟩
      case isFalse => exact hposStored hw
  · obtain ⟨p, hw, hp, _, hnear⟩ := singleWritesStoreTheNearest c s o b hov hvv ho hb hl hfin hzero hmax hwf q hq
    exact ⟨p, hw, hp, withinHalfUlp_of_nearest hfin hzero hmax fun p' hp' => (hnear p' hp').1⟩

/-- A pattern that is no NaN is a finite number or one of the two infinities. -/
theorem eq_inf64_of_not {b : Bits64} (hfin : ¬ finite64 b) (hnan : ¬ nanPattern64 b) :
    b = 0x7FF0000000000000 ∨ b = 0xFFF0000000000000 := by
  rw [finite64, not_not, bitField_exp64] at hfin
  rw [nanPattern64, bitField_exp64, bitField_frac64, not_and, not_not] at hnan
  rw [← pack64_fields b, hfin, hnan hfin]
  cases sign64 b
  · exact .inl rfl
  · exact .inr rfl

/-! ## The round trip -/

theorem readsPatternAs_readF32_iff (d : Ctl) (p : Bits32) (x : Bits64) :
    ReadsPatternAs (.readF32LE d) p.toNat x ↔
      if nanPattern32 p then nanPattern64 x
      else if p = 0x7F800000 then x = 0x7FF0000000000000
      else if p = 0xFF800000 then x = 0xFFF0000000000000
      else finite64 x ∧ value64 x = value32 p ∧ bitField x.toNat 63 63 = bitField p.toNat 31 31 := by
  unfold ReadsPatternAs
  dsimp only
  rw [BitVec.ofNat_toNat, BitVec.setWidth_eq]

/-- A read of a finite pattern. -/
theorem ReadsPatternAs.of_finite32 {d : Ctl} {p : Bits32} {x : Bits64} (h : ReadsPatternAs (.readF32LE d) p.toNat x)
    (hp : finite32 p) : finite64 x ∧ value64 x = value32 p := by
  rw [readsPatternAs_readF32_iff, if_neg fun hnan => hp hnan.1, if_neg (by rintro rfl; exact hp (by decide)),
    if_neg (by rintro rfl; exact hp (by decide))] at h
  obtain ⟨hfinite, hvalue, _⟩ := h
  exact ⟨hfinite, hvalue⟩

/-- The two commands of a single-precision round trip, as `doublePair_of_mem`. -/
theorem singlePair_of_mem {c d : Ctl} {q : Instr × Instr}
    (hq : q ∈ [(Instr.writeF32LE c, Instr.readF32LE d), (Instr.writeF32BE c, Instr.readF32BE d)]) :
    (q.1, bigEndian q.2) ∈ [(Instr.writeF32LE c, false), (Instr.writeF32BE c, true)] ∧ ReadsAs q.2 4 ∧ q.2.ctl = d ∧
      ∀ u x, ReadsPatternAs q.2 u x ↔ ReadsPatternAs (.readF32LE d) u x := by
  obtain rfl | rfl := List.mem_pair.1 hq
  · exact ⟨.head _, readsAs_of_class rfl, rfl, fun _ _ => Iff.rfl⟩
  · exact ⟨.tail _ (.head _), readsAs_of_class rfl, rfl, fun _ _ => Iff.rfl⟩

/-- Settles O55, by the kind of value in VAL: the read returns what O51 and O52 say is stored. -/
theorem singleRoundTrip : Obligations.SingleRoundTrip := by
  intro c d s o b hcov hcvv hdov ho hb hl hmax hwf q hq
  obtain ⟨hqw, hr, hctl, hreads⟩ := singlePair_of_mem hq
  obtain ⟨_, _, hposInf, hnegInf, hnan⟩ := singleWritesOfSpecialValues c s o b hcov hcvv ho hb hl hwf _ hqw
  have hback {p : Bits32} {k : Nat} (hw : StoresPattern q.1 s o 4 (bigEndian q.2) p.toNat k) :
      CompletesWith q.1 q.2 s fun u => ReadsPatternAs (.readF32LE d) p.toNat u.result :=
    (completesWith_of_storesPattern hr (hctl ▸ hdov) ho hl p.isLt hw).mono fun u hu => (hreads _ _).1 hu
  by_cases hfin : finite64 b
  · obtain ⟨p, hw, hp, hhalf⟩ := exists_storesPattern_writeF32_finite hcov hcvv ho hb hl hwf hfin (hmax hfin) hqw
    refine (hback hw).mono fun u hu => ⟨fun h => absurd h.1 hfin, fun h => absurd hfin h, fun _ => ?_⟩
    obtain ⟨hfinite, hvalue⟩ := hu.of_finite32 hp
    rw [← hvalue] at hhalf
    exact hhalf.imp (⟨hfinite, ·⟩) fun ⟨e, hlow, hbelow, hdist⟩ => ⟨e, hlow, hbelow, hfinite, hdist⟩
  by_cases hb64 : nanPattern64 b
  · obtain ⟨p, hp, hw⟩ := hnan hb64
    refine (hback hw).mono fun u hu => ⟨fun _ => ?_, fun _ h => absurd hb64 h, fun h => absurd h hfin⟩
    rwa [readsPatternAs_readF32_iff, if_pos hp] at hu
  · obtain hinf | hinf := eq_inf64_of_not hfin hb64
    · refine (hback (p := 0x7F800000) (hposInf hinf)).mono fun u hu =>
        ⟨fun h => absurd h hb64, fun _ _ => ?_, fun h => absurd h hfin⟩
      rw [hinf]
      exact (readsPatternAs_readF32_iff _ _ _).1 hu
    · refine (hback (p := 0xFF800000) (hnegInf hinf)).mono fun u hu =>
        ⟨fun h => absurd h hb64, fun _ _ => ?_, fun h => absurd h hfin⟩
      rw [hinf]
      exact (readsPatternAs_readF32_iff _ _ _).1 hu

end Sys2Proof.Machine
end

section
/-! The STATUS codes of each command (60_exceptions R200, R202, R215): StatusIsOneOfTheCommandsCodes. -/

namespace Sys2Proof.Machine

/-! ## The code lists of R200, by class -/

/-- Every command may end in `done` (R202); only a numeric command's list depends on its assertion mode. -/
theorem zero_mem_statusCodes (i : Instr) : 0 ∈ statusCodes i := by
  have hmode (a : Bool) (codes : List (BitVec 4)) : 0 ∈ if a then 0 :: codes else [0] := by
    cases a <;> exact .head _
  cases i with
  | length | encsel | b64dec | b64enc | hexdec | hexenc | u8enc | u8dec => exact .head _
  | _ c => exact hmode c.a _

theorem statusCodes_of_numericRead {i : Instr} {n : Nat} (hc : commandClass i = .numericRead n) (ha : i.ctl.a = true) :
    statusCodes i = [0, 5, 6] := by
  cases i <;> cases hc <;> exact if_pos ha

theorem statusCodes_of_intWrite {i : Instr} {r : Nat × ℤ × ℤ} (hr : intWriteRange i = some r) (ha : i.ctl.a = true) :
    statusCodes i = [0, 5, 6, 7] := by
  cases i <;> cases hr <;> exact if_pos ha

theorem statusCodes_of_floatWrite {i : Instr} {n : Nat} (hc : commandClass i = .numericWrite n)
    (hr : intWriteRange i = none) (ha : i.ctl.a = true) : statusCodes i = [0, 5, 6] := by
  cases i <;> cases hc <;> cases hr <;> exact if_pos ha

/-! ## The STATUS a numeric command leaves -/

theorem ReadOutcome.status {n : Nat} {c : Ctl} {s t : State} (h : ReadOutcome n c s t) :
    t.status = 0 ∨ c.a = true ∧ (t.status = 6 ∨ t.status = 5) := by
  obtain ⟨r, d, rfl⟩ | ⟨⟨ha, rfl | rfl⟩, _⟩ := h
  · exact .inl rfl
  · exact .inr ⟨ha, .inl rfl⟩
  · exact .inr ⟨ha, .inr rfl⟩

theorem WriteOutcome.status {α : Type} {n : Nat} {judge : Bits64 → Except ErrorKind α} {c : Ctl} {s t : State}
    (h : WriteOutcome n judge c s t) :
    t.status = 0 ∨ c.a = true ∧ (t.status = 6 ∨ t.status = 5 ∨ ∃ b e, judge b = .error e ∧ t.status = e.code) := by
  obtain ⟨o, bs, d, _, _, _, _, rfl⟩ | ⟨e, ha, rfl | rfl | ⟨b, hb⟩, rfl⟩ := h
  · exact .inl rfl
  · exact .inr ⟨ha, .inl rfl⟩
  · exact .inr ⟨ha, .inr (.inl rfl)⟩
  · exact .inr ⟨ha, .inr (.inr ⟨b, e, hb, rfl⟩)⟩

/-! ## The obligation -/

/-- STATUS of a command that completed, by the command's class. -/
theorem CompletesAs.status_mem {i : Instr} {s t : State} (h : CompletesAs i s t) : t.status ∈ statusCodes i := by
  have hdone (hz : t.status = 0) : t.status ∈ statusCodes i := hz ▸ zero_mem_statusCodes i
  cases h with
  | length _ r h => exact hdone (h ▸ rfl)
  | encsel _ hs h =>
    obtain ⟨r, rfl⟩ | rfl := h
    · exact hdone rfl
    · simp [hs, ErrorKind.code]
  | textToBytes _ h =>
    obtain ⟨bs, rfl⟩ | ⟨e, he, rfl⟩ := h
    · exact hdone rfl
    · exact he
  | bytesToText _ x d h => exact hdone (h ▸ rfl)
  | read n hc h =>
    obtain hz | ⟨ha, hst⟩ := h.status
    · exact hdone hz
    · rw [statusCodes_of_numericRead hc ha]
      obtain hst | hst := hst <;> simp [hst]
  | writeInt n lo hi _ hr h =>
    obtain hz | ⟨ha, hst⟩ := h.status
    · exact hdone hz
    · rw [statusCodes_of_intWrite hr ha]
      obtain hst | hst | ⟨b, e, hb, hst⟩ := hst
      · simp [hst]
      · simp [hst]
      · obtain rfl | rfl := judgeInt_error hb <;> simp [hst, ErrorKind.code]
  | writeFloat n m hc hr h =>
    obtain hz | ⟨ha, hst⟩ := h.status
    · exact hdone hz
    · rw [statusCodes_of_floatWrite hc hr ha]
      obtain hst | hst | ⟨b, e, hb, hst⟩ := hst
      · simp [hst]
      · simp [hst]
      · obtain rfl := judgeFloat_error hb
        simp [hst, ErrorKind.code]

/-- Settles O14: `exec_next` names the ends of each class, and each end's STATUS is in the class's list. -/
theorem statusIsOneOfTheCommandsCodes : Obligations.StatusIsOneOfTheCommandsCodes :=
  fun _ _ _ h => (exec_next h).status_mem

end Sys2Proof.Machine
end
